-- ==== Sys2Proof/Word.lean ====
section
/-! DEFINITION. The widths of the block's words: bytes, 6-bit base64 values, the 16-bit checksum, the 32-bit
workchain and the 64-bit command and response words (spec/30_encoding.md R40, R45; spec/10_state.md R10). -/

namespace Sys2Proof

/-- A byte of a buffer, an operand field or an 8-bit register. -/
abbrev Byte := BitVec 8

/-- The 6-bit value of one base64 character (30_encoding.md R56, R57). -/
abbrev Sextet := BitVec 6

/-- The 16-bit register of the checksum engine (10_state.md R16). -/
abbrev Sum := BitVec 16

/-- A 32-bit field: the workchain operand and the data of a response (30_encoding.md R40, R45). -/
abbrev Word32 := BitVec 32

/-- A command word of format `C64` (30_encoding.md R40). -/
abbrev CommandWord := BitVec 64

/-- A response word (30_encoding.md R45). -/
abbrev ResponseWord := BitVec 64

end Sys2Proof
end

