-- ==== Sys2Proof/Syntax.lean ====
section
/-! DEFINITION. The 16 commands of spec/30_encoding.md R41, one constructor for each row of
spec/opcode_table.json, with the operands of R42 as they stand in the fields. -/

namespace Sys2Proof

/-- A command of the CORE command set. Operands are the fields of the word as found: `idx`, `reg`, `len` and
`flg` are field `a`, `val` is field `b`, `wc` is `imm` (30_encoding.md R42, R44). -/
inductive Instr where
  /-- `NOP` (46_system.md R102). -/
  | nop
  /-- `RDR reg` (46_system.md R103). -/
  | rdr (reg : Byte)
  /-- `WRB idx, val` (45_buffer_access.md R95). -/
  | wrb (idx val : Byte)
  /-- `RDB idx` (45_buffer_access.md R96). -/
  | rdb (idx : Byte)
  /-- `WRT idx, val` (45_buffer_access.md R97). -/
  | wrt (idx val : Byte)
  /-- `RDT idx` (45_buffer_access.md R98). -/
  | rdt (idx : Byte)
  /-- `SETLEN len` (45_buffer_access.md R99). -/
  | setlen (len : Byte)
  /-- `CRCCLR` (40_crc.md R65). -/
  | crcclr
  /-- `CRCPUT val` (40_crc.md R66). -/
  | crcput (val : Byte)
  /-- `CRCFIN` (40_crc.md R67). -/
  | crcfin
  /-- `PACK wc, flg` (41_pack.md R70). -/
  | pack (flg : Byte) (wc : Word32)
  /-- `CHECK` (43_check.md R85). -/
  | check
  /-- `B64ENC` (42_base64.md R75). -/
  | b64enc
  /-- `B64DEC` (42_base64.md R77). -/
  | b64dec
  /-- `ENCODE wc, flg` (44_codec.md R90). -/
  | encode (flg : Byte) (wc : Word32)
  /-- `DECODE` (44_codec.md R91). -/
  | decode
  deriving DecidableEq, Repr

end Sys2Proof
end

