-- ==== Sys2Proof/WellFormed.lean ====
section
/-! DEFINITION. Which terms of `Instr` a command word can spell (spec/30_encoding.md R41, R44): every operand
value is admitted but a flags operand with one of its bits 7:2 set. Index, register, length and workchain ranges
are checked when the command runs, not here (R41). -/

namespace Sys2Proof

/-- The flags operand's bits 7:2 are zero (30_encoding.md R44). -/
def flagsLegal (flg : Byte) : Bool :=
  flg &&& 0xFC#8 == 0x00#8

/-- The command can be spelled by a command word. -/
def Instr.wellFormed : Instr → Bool
  | .nop => true
  | .rdr _ => true
  | .wrb _ _ => true
  | .rdb _ => true
  | .wrt _ _ => true
  | .rdt _ => true
  | .setlen _ => true
  | .crcclr => true
  | .crcput _ => true
  | .crcfin => true
  | .pack flg _ => flagsLegal flg
  | .check => true
  | .b64enc => true
  | .b64dec => true
  | .encode flg _ => flagsLegal flg
  | .decode => true

end Sys2Proof
end

