-- ==== Sys2Proof/Decode.lean ====
section
/-! DEFINITION. The fields of a command word, the mask and match table, the decoder (total on all 2^64 words, each
refusal with its name) and the encoder (spec/30_encoding.md R40 to R44, R47, R48). -/

namespace Sys2Proof

/-- Why a word spells no command (30_encoding.md R47). The block answers `E_ILLEGAL` for each of them. -/
inductive Illegal where
  /-- `op` is not one of the 16 opcodes. -/
  | unknownOpcode
  /-- The reserved field `z` is not zero. -/
  | reservedZ
  /-- Field `a` is not used by the command and is not zero. -/
  | unusedA
  /-- Field `b` is not used by the command and is not zero. -/
  | unusedB
  /-- Field `imm` is not used by the command and is not zero. -/
  | unusedImm
  /-- The flags operand has one of its bits 7:2 set. -/
  | reservedFlags
  deriving DecidableEq, Repr

/-- Field `op`, bits 63:56 (30_encoding.md R40). -/
def fieldOp (w : CommandWord) : Byte := w.extractLsb' 56 8
/-- Field `a`, bits 55:48. -/
def fieldA (w : CommandWord) : Byte := w.extractLsb' 48 8
/-- Field `b`, bits 47:40. -/
def fieldB (w : CommandWord) : Byte := w.extractLsb' 40 8
/-- Field `z`, bits 39:32. -/
def fieldZ (w : CommandWord) : Byte := w.extractLsb' 32 8
/-- Field `imm`, bits 31:0. -/
def fieldImm (w : CommandWord) : Word32 := w.extractLsb' 0 32

/-- The command word with the given fields, format `C64` (30_encoding.md R40). -/
def c64 (op a b z : Byte) (imm : Word32) : CommandWord := op ++ a ++ b ++ z ++ imm

/-- Goes on when field `a` is zero. -/
def noA (w : CommandWord) (k : Except Illegal Instr) : Except Illegal Instr :=
  if fieldA w = 0#8 then k else .error .unusedA

/-- Goes on when field `b` is zero. -/
def noB (w : CommandWord) (k : Except Illegal Instr) : Except Illegal Instr :=
  if fieldB w = 0#8 then k else .error .unusedB

/-- Goes on when field `imm` is zero. -/
def noImm (w : CommandWord) (k : Except Illegal Instr) : Except Illegal Instr :=
  if fieldImm w = 0#32 then k else .error .unusedImm

/-- Goes on when field `a` is a legal flags operand. -/
def flagsInA (w : CommandWord) (k : Except Illegal Instr) : Except Illegal Instr :=
  if flagsLegal (fieldA w) then k else .error .reservedFlags

/-- The command a word spells, or why it spells none (30_encoding.md R41, R43, R47): the whole `op` byte is
matched, and every field the command does not use must be zero. -/
def decode (w : CommandWord) : Except Illegal Instr :=
  if fieldZ w ≠ 0#8 then .error .reservedZ
  else
    match (fieldOp w).toNat with
    | 0x00 => noA w (noB w (noImm w (.ok .nop)))
    | 0x01 => noB w (noImm w (.ok (.rdr (fieldA w))))
    | 0x10 => noImm w (.ok (.wrb (fieldA w) (fieldB w)))
    | 0x11 => noB w (noImm w (.ok (.rdb (fieldA w))))
    | 0x12 => noImm w (.ok (.wrt (fieldA w) (fieldB w)))
    | 0x13 => noB w (noImm w (.ok (.rdt (fieldA w))))
    | 0x14 => noB w (noImm w (.ok (.setlen (fieldA w))))
    | 0x20 => noA w (noB w (noImm w (.ok .crcclr)))
    | 0x21 => noA w (noImm w (.ok (.crcput (fieldB w))))
    | 0x22 => noA w (noB w (noImm w (.ok .crcfin)))
    | 0x30 => flagsInA w (noB w (.ok (.pack (fieldA w) (fieldImm w))))
    | 0x31 => noA w (noB w (noImm w (.ok .check)))
    | 0x40 => noA w (noB w (noImm w (.ok .b64enc)))
    | 0x41 => noA w (noB w (noImm w (.ok .b64dec)))
    | 0x50 => flagsInA w (noB w (.ok (.encode (fieldA w) (fieldImm w))))
    | 0x51 => noA w (noB w (noImm w (.ok .decode)))
    | _ => .error .unknownOpcode

/-- The command word that spells a command (30_encoding.md R41, R49). -/
def encode : Instr → CommandWord
  | .nop => c64 0x00#8 0#8 0#8 0#8 0#32
  | .rdr reg => c64 0x01#8 reg 0#8 0#8 0#32
  | .wrb idx val => c64 0x10#8 idx val 0#8 0#32
  | .rdb idx => c64 0x11#8 idx 0#8 0#8 0#32
  | .wrt idx val => c64 0x12#8 idx val 0#8 0#32
  | .rdt idx => c64 0x13#8 idx 0#8 0#8 0#32
  | .setlen len => c64 0x14#8 len 0#8 0#8 0#32
  | .crcclr => c64 0x20#8 0#8 0#8 0#8 0#32
  | .crcput val => c64 0x21#8 0#8 val 0#8 0#32
  | .crcfin => c64 0x22#8 0#8 0#8 0#8 0#32
  | .pack flg wc => c64 0x30#8 flg 0#8 0#8 wc
  | .check => c64 0x31#8 0#8 0#8 0#8 0#32
  | .b64enc => c64 0x40#8 0#8 0#8 0#8 0#32
  | .b64dec => c64 0x41#8 0#8 0#8 0#8 0#32
  | .encode flg wc => c64 0x50#8 flg 0#8 0#8 wc
  | .decode => c64 0x51#8 0#8 0#8 0#8 0#32

/-- One row of the table of 30_encoding.md R41: a word spells the row's command exactly when
`(w & mask) == pattern`. -/
structure Row where
  mask : CommandWord
  pattern : CommandWord
  deriving DecidableEq, Repr

/-- A word matches a row. -/
def Row.matches (r : Row) (w : CommandWord) : Bool := w &&& r.mask == r.pattern

/-- The row of a command (30_encoding.md R41), independent of its operands. -/
def rowOf : Instr → Row
  | .nop => ⟨0xFFFFFFFFFFFFFFFF, 0x0000000000000000⟩
  | .rdr _ => ⟨0xFF00FFFFFFFFFFFF, 0x0100000000000000⟩
  | .wrb _ _ => ⟨0xFF0000FFFFFFFFFF, 0x1000000000000000⟩
  | .rdb _ => ⟨0xFF00FFFFFFFFFFFF, 0x1100000000000000⟩
  | .wrt _ _ => ⟨0xFF0000FFFFFFFFFF, 0x1200000000000000⟩
  | .rdt _ => ⟨0xFF00FFFFFFFFFFFF, 0x1300000000000000⟩
  | .setlen _ => ⟨0xFF00FFFFFFFFFFFF, 0x1400000000000000⟩
  | .crcclr => ⟨0xFFFFFFFFFFFFFFFF, 0x2000000000000000⟩
  | .crcput _ => ⟨0xFFFF00FFFFFFFFFF, 0x2100000000000000⟩
  | .crcfin => ⟨0xFFFFFFFFFFFFFFFF, 0x2200000000000000⟩
  | .pack _ _ => ⟨0xFFFCFFFF00000000, 0x3000000000000000⟩
  | .check => ⟨0xFFFFFFFFFFFFFFFF, 0x3100000000000000⟩
  | .b64enc => ⟨0xFFFFFFFFFFFFFFFF, 0x4000000000000000⟩
  | .b64dec => ⟨0xFFFFFFFFFFFFFFFF, 0x4100000000000000⟩
  | .encode _ _ => ⟨0xFFFCFFFF00000000, 0x5000000000000000⟩
  | .decode => ⟨0xFFFFFFFFFFFFFFFF, 0x5100000000000000⟩

/-- The 16 rows of the table, in its order (30_encoding.md R41, R43). -/
def opTable : List Row :=
  [rowOf .nop, rowOf (.rdr 0), rowOf (.wrb 0 0), rowOf (.rdb 0), rowOf (.wrt 0 0), rowOf (.rdt 0),
    rowOf (.setlen 0), rowOf .crcclr, rowOf (.crcput 0), rowOf .crcfin, rowOf (.pack 0 0), rowOf .check,
    rowOf .b64enc, rowOf .b64dec, rowOf (.encode 0 0), rowOf .decode]

/-- The command word made of the low `nbits` bits of `w`, the bits above them zero. A command word is one 64-bit
word (30_encoding.md R40, R48), so the numbering of the opcode table is the word's own. -/
def tableWord (nbits w : Nat) : CommandWord := BitVec.ofNat 64 (w % 2 ^ nbits)

/-- What the decoder reads from a word of the opcode table. -/
def decodeTableWord (nbits w : Nat) : Option Instr :=
  match decode (tableWord nbits w) with
  | .ok i => some i
  | .error _ => none

end Sys2Proof
end

