-- ==== Sys2Proof/Config.lean ====
section
/-! DEFINITION. The parameters of spec/00_scope.md R5: the fixed ones as constants, the OPEN ones (`RESET_BUF`,
`RESET_TXT`, and the host's `parseWorkchain` of spec/48_host_software.md R107) as constants without a body, so
that nothing can be proved about the value a spec leaves free. `LATENCY` is read by no rule and has no constant. -/

namespace Sys2Proof.Config

/-- `POLY`, the CRC polynomial. -/
abbrev poly : Nat := 0x1021
/-- `CRC_INIT`, the register before the first payload byte. -/
abbrev crcInit : Sum := 0x0000#16
/-- `CRC_PAD` zero bytes follow the payload (40_crc.md R63). -/
abbrev crcPad : List Byte := [0x00#8, 0x00#8]
/-- `REC_LEN`, the bytes of a record and of `BUF`. -/
abbrev recLen : Nat := 36
/-- `PREFIX_LEN`, the record bytes the checksum covers. -/
abbrev prefixLen : Nat := 34
/-- `ACC_LEN`, the bytes of the account identifier. -/
abbrev accLen : Nat := 32
/-- `TXT_LEN`, the characters of a friendly text. -/
abbrev txtLen : Nat := 48
/-- `TXT_CAP`, the characters `TXT` holds. -/
abbrev txtCap : Nat := 64
/-- `TAG_BOUNCEABLE`. -/
abbrev tagBounceable : Byte := 0x11#8
/-- `TAG_UNBOUNCEABLE`. -/
abbrev tagUnbounceable : Byte := 0x51#8
/-- `TAG_TESTNET`. -/
abbrev tagTestnet : Byte := 0x80#8
/-- `WC_MASTER`, the byte that encodes workchain -1. -/
abbrev wcMaster : Byte := 0xFF#8

/-- `RESET_BUF` (OPEN, 10_state.md R21, 93_implementation_defined.md U1): the byte at an index of `BUF` after the
reset with the given number. A FREE VALUE: no body, so no proof can use what it is. notes/assumptions/1.md. -/
opaque resetBuf (draw index : Nat) : Byte

/-- `RESET_TXT` (OPEN): the byte at an index of `TXT` after the reset with the given number. A FREE VALUE.
notes/assumptions/1.md. -/
opaque resetTxt (draw index : Nat) : Byte

/-- `parseWorkchain` (OPEN, host only, 48_host_software.md R107, 91_not_in_source.md N14): what a host reads from a
workchain text that spells an integer loosely (`+1`, `00`, white space around it, nothing at all). A FREE VALUE.
notes/assumptions/9.md. -/
opaque looseWorkchain (text : List Char) : Option Int

end Sys2Proof.Config
end

