-- ==== Sys2Proof/Machine/State.lean ====
section
/-! DEFINITION. What the machine holds: the block's architectural state (spec/10_state.md R10 to R19), and beside it the
two lines through which the host acts on it (spec/00_scope.md R7, spec/70_reset_and_hazards.md R135, R145) and the
model's own record of the host; the reset state (R21, R136), and the reasons a step can stop. Plain data throughout. -/

namespace Sys2Proof.Machine

/-- The two byte spaces of 20_memory.md R25: the record space `BUF` and the text space `TXT`. -/
inductive Space where
  | record
  | text
  deriving DecidableEq, Repr

/-- The locations of a space: 36 record bytes, 64 characters (20_memory.md R25). -/
def Space.size : Space → Nat
  | .record => Config.recLen
  | .text => Config.txtCap

/-- Memory as its (address, byte) pairs. An address that is not listed is no location of the block and reads as no
value; a buffer lists every location the spec gives it (20_memory.md R25, R26). -/
abbrev Memory := List Host.Cell

/-- The ONE form of a buffer of `size` locations: the addresses 0 to `size - 1`, rising, each once. -/
abbrev Memory.wf (size : Nat) (m : Memory) : Prop := m.map Prod.fst = List.range size

/-- The pairs of a buffer of `size` locations with the given contents. -/
def Memory.filled (size : Nat) (byte : Nat → Byte) : Memory :=
  (List.range size).map fun a => (a, byte a)

theorem Memory.filled_wf (size : Nat) (byte : Nat → Byte) : (Memory.filled size byte).wf size := by
  simp [Memory.wf, Memory.filled, Function.comp_def]

/-- An array of `size` bytes: the pairs in their one form, and nothing that is not in it (10_state.md R10,
20_memory.md R25; `Buffer.equivArray`, notes/assumptions/6.md). -/
structure Buffer (size : Nat) where
  /-- The (address, byte) pairs. -/
  cells : Memory
  /-- They have the form. -/
  form : cells.wf size := by decide
  deriving DecidableEq, Repr

/-- A buffer with the given contents. -/
def Buffer.filled (size : Nat) (byte : Nat → Byte) : Buffer size :=
  ⟨Memory.filled size byte, Memory.filled_wf size byte⟩

/-- What the host does next (00_scope.md R7: it issues command words, reads response words and asserts reset). -/
inductive HostInput where
  /-- The host presents a command word (70_reset_and_hazards.md R145). -/
  | command (w : CommandWord)
  /-- The host takes the response word that waits (R145). -/
  | takeResponse
  /-- The host asserts the reset input (R135). -/
  | assertReset
  /-- The host releases the reset input (R135). -/
  | releaseReset
  deriving DecidableEq, Repr

/-- The complete architectural state of the block: exactly the product of the seven elements of 10_state.md R10, and
nothing else (`ArchState.equivProduct`). -/
structure ArchState where
  /-- `BUF`, an array of 36 bytes (10_state.md R13). -/
  buf : Buffer Config.recLen
  /-- `TXT`, an array of 64 bytes (R14). -/
  txt : Buffer Config.txtCap
  /-- `TLEN`, 7 bits (R15). -/
  tlen : BitVec 7
  /-- `CRC`, 16 bits (R16). -/
  crc : Sum
  /-- `STATUS`, 8 bits: `VALID`, `BNC`, `TST` in bits 0 to 2 (R17). -/
  status : Byte
  /-- `TAG`, 8 bits (R18). -/
  tag : Byte
  /-- `WC`, 32 bits (R19). -/
  wc : Word32
  deriving DecidableEq, Repr

/-- What stands beside the architectural state because a step takes no argument: the block's response port and reset
input, and the model's own record of the host and of the free reset contents (notes/assumptions/2.md, 3.md). No command
reads any of it. -/
structure Surroundings where
  /-- The response word that the host has not taken yet (30_encoding.md R45, 70_reset_and_hazards.md R145). -/
  response : Option ResponseWord
  /-- The reset input is asserted (70_reset_and_hazards.md R135). -/
  resetLine : Bool
  /-- What the host is going to do, the next thing first. The model's own. -/
  inputs : List HostInput
  /-- The response words the host has taken, the latest first. The model's own. -/
  taken : List ResponseWord
  /-- How many resets there have been since the first: it selects the draw of the free buffer contents. The
  model's own. -/
  draws : Nat
  deriving DecidableEq, Repr

/-- What `step` acts on: the architectural state (10_state.md R10) together with its surroundings. The spec's `State`
is `ArchState`; the step here takes no command word, so the word has to stand in what it takes
(notes/assumptions/2.md). -/
structure State extends ArchState, Surroundings
  deriving DecidableEq, Repr

/-- The state right after a reset whose unspecified buffer contents are the two arguments (10_state.md R21,
70_reset_and_hazards.md R136). -/
def State.init (bufDraw txtDraw : Nat → Byte) : State where
  buf := Buffer.filled Config.recLen bufDraw
  txt := Buffer.filled Config.txtCap txtDraw
  tlen := 0#7
  crc := Config.crcInit
  status := 0x00#8
  tag := 0x00#8
  wc := 0x00000000#32
  response := none
  resetLine := false
  inputs := []
  taken := []
  draws := 0

/-- The machine right after reset: the registers at the values of 10_state.md R21, every buffer byte a free value
(notes/assumptions/1.md), the reset input released, no command in progress. -/
def State.reset : State := State.init (Config.resetBuf 0) (Config.resetTxt 0)

/-- Why a step faults. -/
inductive Fault where
  /-- An access to a location that the space does not have (20_memory.md R25, R26). Raised by `Ended.finish` where a
  buffer operation of Machine/Ops.lean meets such an address. No command reaches it, from any state: a `Buffer` has
  every location the spec gives it, and the commands test their index first and answer `E_INDEX`
  (45_buffer_access.md R100). Safe. -/
  | absentLocation (space : Space)
  deriving DecidableEq, Repr

/-- Why a step is refused. -/
inductive Refusal where
  /-- An instruction without a meaning. Raised by no arm of `exec`. Safe. -/
  | notModelled (mnemonic : String)
  /-- A command word presented while reset is asserted: what the block does is not specified
  (93_implementation_defined.md U3, 70_reset_and_hazards.md R135). Raised by the step. Safe. -/
  | commandDuringReset
  /-- A command word presented before the response to the previous one has been taken: what the block does is not
  specified (93_implementation_defined.md U3, 70_reset_and_hazards.md R145). Raised by the step. Safe. -/
  | commandBeforeResponse
  deriving DecidableEq, Repr

end Sys2Proof.Machine
end

