-- ==== Sys2Proof/Machine/Flags.lean ====
section
/-! DEFINITION. The flags of `STATUS` (spec/10_state.md R17) and how a successful validation computes them from the
tag byte (spec/30_encoding.md R52, spec/43_check.md R85). -/

namespace Sys2Proof.Machine

/-- `STATUS.VALID`, bit 0. -/
def statusValid (status : Byte) : Bool := status.getLsbD 0
/-- `STATUS.BNC`, bit 1. -/
def statusBnc (status : Byte) : Bool := status.getLsbD 1
/-- `STATUS.TST`, bit 2. -/
def statusTst (status : Byte) : Bool := status.getLsbD 2

/-- The tag byte read as bounceable: bit 6 clear (30_encoding.md R52). -/
def tagIsBounceable (tag : Byte) : Bool := tag &&& 0x40#8 == 0x00#8
/-- The tag byte read as testnet: bit 7 set (30_encoding.md R52). -/
def tagIsTestnet (tag : Byte) : Bool := tag &&& 0x80#8 != 0x00#8

/-- `0b00000 ++ TST ++ BNC ++ 1`: the status of a validated record with the given tag byte (43_check.md R85). -/
def validStatus (tag : Byte) : Byte :=
  0b00000#5 ++ BitVec.ofBool (tagIsTestnet tag) ++ BitVec.ofBool (tagIsBounceable tag) ++ 0b1#1

end Sys2Proof.Machine
end

