-- ==== Sys2Proof/Machine/Operands.lean ====
section
/-! DEFINITION. How the operands of a command are read (spec/30_encoding.md R42, R44) and how the tag byte and the
workchain byte of a record are composed from them (R51, R53; spec/41_pack.md R71). -/

namespace Sys2Proof.Machine

/-- `unsigned(a)`: an index, register number or length (30_encoding.md R42). -/
def operandNat (a : Byte) : Nat := a.toNat

/-- `signed(imm)`: the workchain operand (30_encoding.md R42). -/
def operandInt (imm : Word32) : Int := imm.toInt

/-- Flag `B` of the flags operand: bounceable (30_encoding.md R44). -/
def flagB (flg : Byte) : Bool := flg.getLsbD 0

/-- Flag `T` of the flags operand: testnet (30_encoding.md R44). -/
def flagT (flg : Byte) : Bool := flg.getLsbD 1

/-- The workchains `PACK` and `ENCODE` accept: -1 and 0 to 254 (41_pack.md R71). -/
def legalWorkchain (w : Int) : Bool := w == -1 || (0 ≤ w && w ≤ 254)

/-- The tag byte composed from the flags operand (30_encoding.md R51). -/
def composeTag (flg : Byte) : Byte :=
  (if flagB flg then Config.tagBounceable else Config.tagUnbounceable)
    ||| (if flagT flg then Config.tagTestnet else 0x00#8)

/-- The workchain byte composed from the workchain operand (30_encoding.md R53). -/
def composeWorkchain (imm : Word32) : Byte :=
  if operandInt imm = -1 then Config.wcMaster else imm.setWidth 8

/-- The workchain read from a workchain byte, as the 32 bits of `WC` (30_encoding.md R54). -/
def readWorkchain (b : Byte) : Word32 :=
  if b = Config.wcMaster then 0xFFFFFFFF#32 else b.setWidth 32

end Sys2Proof.Machine
end

