-- ==== Sys2Proof/Machine/Ops.lean ====
section
/-! DEFINITION. The named operations the meanings are built from: the bytes of a buffer, the writes of the registers,
the two ways a command ends (`respond` and `fail`, spec/00_scope.md R9), the record in `BUF`, and the reset input and
response port. The block has no traps (spec/60_exceptions.md R126): `fail` is the ONE shared operation that stands
where other machines take an exception, and there is nothing to return from (R127). -/

namespace Sys2Proof.Machine

/-! ### Buffers -/

/-- The byte at an address, or no value where no such location is listed (20_memory.md R26). -/
def Memory.read (m : Memory) (a : Nat) : Option Byte := m.lookup a

/-- The `n` bytes from address `lo` up, `S[lo..lo+n)` (00_scope.md R8). -/
def Memory.slice (m : Memory) (lo : Nat) : Nat → Option (List Byte)
  | 0 => some []
  | n + 1 =>
    match m.read lo, Memory.slice m (lo + 1) n with
    | some v, some vs => some (v :: vs)
    | _, _ => none

/-- The pairs with the given bytes at the addresses from `lo` up. Addresses that are not listed stay unlisted. -/
def Memory.store (m : Memory) (lo : Nat) (bs : List Byte) : Memory :=
  m.map fun c => if c.1 < lo then c else (c.1, bs.getD (c.1 - lo) c.2)

/-- A store keeps the addresses that are listed. -/
@[simp] theorem Memory.store_addresses (m : Memory) (lo : Nat) (bs : List Byte) :
    (m.store lo bs).map Prod.fst = m.map Prod.fst := by
  simp only [Memory.store, List.map_map]
  refine List.map_congr_left fun c _ => ?_
  by_cases h : c.1 < lo <;> simp [h]

theorem Memory.store_wf {n : Nat} {m : Memory} (h : m.wf n) (lo : Nat) (bs : List Byte) :
    (m.store lo bs).wf n := by
  simpa [Memory.wf] using h

/-- The byte at an address of a buffer. -/
def Buffer.read {size : Nat} (b : Buffer size) (a : Nat) : Option Byte := b.cells.read a

/-- The `n` bytes of a buffer from address `lo` up. -/
def Buffer.slice {size : Nat} (b : Buffer size) (lo n : Nat) : Option (List Byte) := b.cells.slice lo n

/-- The buffer with the given bytes at the addresses from `lo` up. -/
def Buffer.store {size : Nat} (b : Buffer size) (lo : Nat) (bs : List Byte) : Buffer size :=
  ⟨b.cells.store lo bs, Memory.store_wf b.form lo bs⟩

/-- `store`, or no value where one of the locations stored to does not exist. -/
def Buffer.put {size : Nat} (b : Buffer size) (lo : Nat) (bs : List Byte) : Option (Buffer size) :=
  if lo + bs.length ≤ size then some (b.store lo bs) else none

/-- The buffer of a space. -/
def State.mem (s : State) : (sp : Space) → Buffer sp.size
  | .record => s.buf
  | .text => s.txt

/-- The model's read of one byte: the byte at an address of a space (20_memory.md R25). -/
def State.readByte (s : State) (sp : Space) (a : Nat) : Option Byte := (s.mem sp).read a

/-! ### Writes of the state elements -/

/-- `BUF <- m`. -/
def State.setBuf (s : State) (m : Buffer Config.recLen) : State := { s with buf := m }
/-- `TXT <- m`. -/
def State.setTxt (s : State) (m : Buffer Config.txtCap) : State := { s with txt := m }
/-- `TLEN <- v`. -/
def State.setTlen (s : State) (v : BitVec 7) : State := { s with tlen := v }
/-- `CRC <- v`. -/
def State.setCrc (s : State) (v : Sum) : State := { s with crc := v }
/-- The three result registers, which are written together (10_state.md R17 to R19). -/
def State.setResult (s : State) (status tag : Byte) (wc : Word32) : State :=
  { s with status := status, tag := tag, wc := wc }
/-- `STATUS <- 0x00; TAG <- 0x00; WC <- 0x00000000` (43_check.md R85, 44_codec.md R91). -/
def State.clearResult (s : State) : State := s.setResult 0x00#8 0x00#8 0x00000000#32
/-- The buffer of a space replaced. -/
def State.setMem (s : State) : (sp : Space) → Buffer sp.size → State
  | .record, m => s.setBuf m
  | .text, m => s.setTxt m

/-! ### Responses -/

/-- The error codes (60_exceptions.md R120). -/
inductive ErrCode where
  | ok
  | illegal
  | index
  | workchain
  | length
  | alphabet
  | checksum
  deriving DecidableEq, Repr

/-- The number of an error code (60_exceptions.md R120). -/
def ErrCode.code : ErrCode → Byte
  | .ok => 0x00#8
  | .illegal => 0x01#8
  | .index => 0x02#8
  | .workchain => 0x03#8
  | .length => 0x04#8
  | .alphabet => 0x05#8
  | .checksum => 0x06#8

/-- The response word: 24 zero bits, the error code, the data (30_encoding.md R45). -/
def responseWord (e : ErrCode) (data : Word32) : ResponseWord := 0#24 ++ e.code ++ data

/-- Field `err` of a response word (30_encoding.md R45). -/
def responseErr (r : ResponseWord) : Byte := r.extractLsb' 32 8

/-- Field `data` of a response word (30_encoding.md R45). -/
def responseData (r : ResponseWord) : Word32 := r.extractLsb' 0 32

/-- The response port holds a word. -/
def State.answer (s : State) (r : ResponseWord) : State := { s with response := some r }

/-- `respond(d)`: a command ends normally with data `d` (00_scope.md R9). -/
def State.respond (s : State) (data : Word32) : State := s.answer (responseWord .ok data)

/-- `fail(E)`: a command ends with an error code and data 0 (00_scope.md R9, 30_encoding.md R46). No state is
saved, no mode changes and nothing is latched (60_exceptions.md R126, R127). -/
def State.fail (s : State) (e : ErrCode) : State := s.answer (responseWord e 0#32)

/-! ### How the body of a command ends -/

/-- The end of a command's body: its error code, its data and the state it leaves; or an access to a location the
buffer does not have. -/
inductive Ended where
  | ended (e : ErrCode) (data : Word32) (s : State)
  | absent (sp : Space)
  deriving DecidableEq, Repr

/-- The body succeeds: the state it leaves and the data it responds with. -/
abbrev Ended.done (s : State) (data : Word32) : Ended := .ended .ok data s

/-- The body fails: the code, and the state with the writes its rule lists under "on failure" (00_scope.md R9). -/
abbrev Ended.failed (e : ErrCode) (s : State) : Ended := .ended e 0#32 s

/-- The outcome of a command whose body ended so: every command answers exactly one response word
(30_encoding.md R45). -/
def Ended.finish : Ended → Host.Outcome State Fault Refusal
  | .ended e data s => .next (s.answer (responseWord e data))
  | .absent sp => .fault (.absentLocation sp)

/-- The next body of a composite command, which runs only if the first did not fail (44_codec.md R93). -/
def Ended.andThen (first : Ended) (next : State → Ended) : Ended :=
  match first with
  | .ended .ok _ s => next s
  | .ended e data s => .ended e data s
  | .absent sp => .absent sp

/-- Goes on with what was read, or ends at the location that is not there. -/
def present {α : Type} (sp : Space) (o : Option α) (k : α → Ended) : Ended :=
  match o with
  | some v => k v
  | none => .absent sp

/-! ### One byte, by index (45_buffer_access.md R95 to R98, R100) -/

/-- The body of a one-byte store: `E_INDEX` outside the space, else the byte is written. -/
def storeByte (sp : Space) (idx val : Byte) (s : State) : Ended :=
  if operandNat idx < sp.size then
    present sp ((s.mem sp).put (operandNat idx) [val]) fun m => .done (s.setMem sp m) 0#32
  else .failed .index s

/-- The body of a one-byte load: `E_INDEX` outside the space, else the byte zero-extended. -/
def loadByte (sp : Space) (idx : Byte) (s : State) : Ended :=
  if operandNat idx < sp.size then
    present sp (s.readByte sp (operandNat idx)) fun v => .done s (v.setWidth 32)
  else .failed .index s

/-! ### The record in `BUF` (30_encoding.md R50) -/

/-- The 36-byte record taken apart: tag byte, workchain byte, the 32-byte account identifier, and the high and low
byte of the checksum. -/
structure Record where
  tag : Byte
  wcByte : Byte
  account : List Byte
  sumHigh : Byte
  sumLow : Byte
  deriving DecidableEq, Repr

/-- The 34 bytes the checksum covers. -/
def Record.covered (r : Record) : List Byte := r.tag :: r.wcByte :: r.account

/-- The record `BUF` holds. -/
def Buffer.record (m : Buffer Config.recLen) : Option Record :=
  match m.read 0, m.read 1, m.slice 2 Config.accLen, m.read 34, m.read 35 with
  | some tag, some wcByte, some account, some hi, some lo => some ⟨tag, wcByte, account, hi, lo⟩
  | _, _, _, _, _ => none

/-! ### Reset input and response port (70_reset_and_hazards.md R135, R145) -/

/-- Reset is asserted: no command is accepted, no response is produced, and a command whose response has not been
taken is abandoned (R135). -/
def State.assertReset (s : State) : State := { s with resetLine := true, response := none }

/-- Reset is released: the state is the reset state, with a new draw of the unspecified buffer contents (R135,
10_state.md R21). A release of a reset that is not asserted is no edge and does nothing. -/
def State.releaseReset (s : State) : State :=
  if s.resetLine then
    { State.init (Config.resetBuf (s.draws + 1)) (Config.resetTxt (s.draws + 1)) with
      inputs := s.inputs, taken := s.taken, draws := s.draws + 1 }
  else s

/-- The host takes the response word that waits; where none waits, nothing is taken (R145). -/
def State.takeResponse (s : State) : State :=
  match s.response with
  | some r => { s with response := none, taken := r :: s.taken }
  | none => s

/-- The host's list of what it does next, with the head removed. -/
def State.withInputs (s : State) (rest : List HostInput) : State := { s with inputs := rest }

end Sys2Proof.Machine
end

