-- ==== Sys2Proof/Machine/Buffer.lean ====
section
/-! DEFINITION. The buffer access commands (spec/45_buffer_access.md R95 to R100). -/

namespace Sys2Proof.Machine

/-- `WRB idx, val` (45_buffer_access.md R95). -/
def execWrb (idx val : Byte) (s : State) : Host.Outcome State Fault Refusal :=
  (storeByte .record idx val s).finish

/-- `RDB idx` (45_buffer_access.md R96). -/
def execRdb (idx : Byte) (s : State) : Host.Outcome State Fault Refusal :=
  (loadByte .record idx s).finish

/-- `WRT idx, val` (45_buffer_access.md R97). -/
def execWrt (idx val : Byte) (s : State) : Host.Outcome State Fault Refusal :=
  (storeByte .text idx val s).finish

/-- `RDT idx` (45_buffer_access.md R98). -/
def execRdt (idx : Byte) (s : State) : Host.Outcome State Fault Refusal :=
  (loadByte .text idx s).finish

/-- The body of `SETLEN` (45_buffer_access.md R99): a length above 64 fails, else `TLEN <- a[6:0]`. -/
def setlenBody (len : Byte) (s : State) : Ended :=
  if operandNat len ≤ Config.txtCap then .done (s.setTlen (len.setWidth 7)) 0#32
  else .failed .index s

/-- `SETLEN len` (45_buffer_access.md R99). -/
def execSetlen (len : Byte) (s : State) : Host.Outcome State Fault Refusal := (setlenBody len s).finish

end Sys2Proof.Machine
end

