-- ==== Sys2Proof/Machine/Base64.lean ====
section
/-! DEFINITION. The base64 URL-safe tables, grouping, encoder and decoder (spec/30_encoding.md R56 to R58,
spec/42_base64.md R75, R77). -/

namespace Sys2Proof.Machine

/-- `b64chr`: the character code of a 6-bit value (30_encoding.md R57). -/
def b64chr (v : Sextet) : Byte :=
  let n := v.toNat
  if n ≤ 25 then BitVec.ofNat 8 (0x41 + n)
  else if n ≤ 51 then BitVec.ofNat 8 (0x61 + (n - 26))
  else if n ≤ 61 then BitVec.ofNat 8 (0x30 + (n - 52))
  else if n = 62 then 0x2D#8
  else 0x5F#8

/-- `b64val`: the 6-bit value of a character code, or invalid (30_encoding.md R56). Both `-` and `+` are 62, both
`_` and `/` are 63. -/
def b64val (c : Byte) : Option Sextet :=
  let n := c.toNat
  if 0x41 ≤ n ∧ n ≤ 0x5A then some (BitVec.ofNat 6 (n - 0x41))
  else if 0x61 ≤ n ∧ n ≤ 0x7A then some (BitVec.ofNat 6 (n - 0x61 + 26))
  else if 0x30 ≤ n ∧ n ≤ 0x39 then some (BitVec.ofNat 6 (n - 0x30 + 52))
  else if n = 0x2D ∨ n = 0x2B then some 62#6
  else if n = 0x5F ∨ n = 0x2F then some 63#6
  else none

/-- The encoding half of the grouping: three bytes give four 6-bit values (30_encoding.md R58). -/
def sextets : List Byte → List Sextet
  | x :: y :: z :: rest =>
    x.extractLsb' 2 6
      :: (x.extractLsb' 0 2 ++ y.extractLsb' 4 4)
      :: (y.extractLsb' 0 4 ++ z.extractLsb' 6 2)
      :: z.extractLsb' 0 6
      :: sextets rest
  | _ => []

/-- The decoding half of the grouping: four 6-bit values give three bytes (30_encoding.md R58). -/
def groupBytes : List Sextet → List Byte
  | v0 :: v1 :: v2 :: v3 :: rest =>
    (v0 ++ v1.extractLsb' 4 2)
      :: (v1.extractLsb' 0 4 ++ v2.extractLsb' 2 4)
      :: (v2.extractLsb' 0 2 ++ v3)
      :: groupBytes rest
  | _ => []

/-- The values of a text, or none when one of its characters is invalid (42_base64.md R79). -/
def textValues : List Byte → Option (List Sextet)
  | [] => some []
  | c :: rest =>
    match b64val c, textValues rest with
    | some v, some vs => some (v :: vs)
    | _, _ => none

/-- The text of a byte sequence (42_base64.md R75). -/
def b64Encode (bs : List Byte) : List Byte := (sextets bs).map b64chr

/-- The byte sequence of a text, or none when one of its characters is invalid (42_base64.md R77). -/
def b64Decode (text : List Byte) : Option (List Byte) := (textValues text).map groupBytes

/-- The body of `B64ENC` (42_base64.md R75). -/
def b64encBody (s : State) : Ended :=
  present .record (s.buf.slice 0 Config.recLen) fun bytes =>
    present .text (s.txt.put 0 (b64Encode bytes)) fun m =>
      .done ((s.setTxt m).setTlen (BitVec.ofNat 7 Config.txtLen)) 0#32

/-- The body of `B64DEC` (42_base64.md R77): the length, then every character, then the 36 bytes. -/
def b64decBody (s : State) : Ended :=
  if s.tlen.toNat ≠ Config.txtLen then .failed .length s
  else
    present .text (s.txt.slice 0 Config.txtLen) fun text =>
      match b64Decode text with
      | none => .failed .alphabet s
      | some bytes => present .record (s.buf.put 0 bytes) fun m => .done (s.setBuf m) 0#32

/-- `B64ENC` (42_base64.md R75). -/
def execB64enc (s : State) : Host.Outcome State Fault Refusal := (b64encBody s).finish

/-- `B64DEC` (42_base64.md R77). -/
def execB64dec (s : State) : Host.Outcome State Fault Refusal := (b64decBody s).finish

end Sys2Proof.Machine
end

