-- ==== Sys2Proof/Machine/Crc.lean ====
section
/-! DEFINITION. The CRC-16/XMODEM-CCITT generator and its three commands (spec/40_crc.md R60 to R67). -/

namespace Sys2Proof.Machine

/-- `crc_bit(r, i)`: one step of the engine, on natural numbers as the document words it (40_crc.md R60). -/
def crcBit (r : Sum) (i : Bool) : Sum :=
  let t := r.toNat * 2 + i.toNat
  BitVec.ofNat 16 (if t > 0xFFFF then (t &&& 0xFFFF) ^^^ Config.poly else t)

/-- `crc_byte(r, v)`: eight steps, bit 7 of the byte first (40_crc.md R61, 20_memory.md R28). -/
def crcByte (r : Sum) (v : Byte) : Sum :=
  let r7 := crcBit r (v.getLsbD 7)
  let r6 := crcBit r7 (v.getLsbD 6)
  let r5 := crcBit r6 (v.getLsbD 5)
  let r4 := crcBit r5 (v.getLsbD 4)
  let r3 := crcBit r4 (v.getLsbD 3)
  let r2 := crcBit r3 (v.getLsbD 2)
  let r1 := crcBit r2 (v.getLsbD 1)
  crcBit r1 (v.getLsbD 0)

/-- `crc_run(r, s)`: the register after a byte sequence (40_crc.md R62). -/
def crcRun (r : Sum) : List Byte → Sum
  | [] => r
  | v :: rest => crcRun (crcByte r v) rest

/-- `crc16(p)`: the checksum of a payload; the engine appends the two padding bytes (40_crc.md R63). -/
def crc16 (p : List Byte) : Sum := crcRun Config.crcInit (p ++ Config.crcPad)

/-- The high byte of a checksum, `register >> 8` (40_crc.md R63). -/
def highByte (c : Sum) : Byte := c.extractLsb' 8 8

/-- The low byte of a checksum, `register & 0xFF` (40_crc.md R63). -/
def lowByte (c : Sum) : Byte := c.extractLsb' 0 8

/-- `CRCCLR` (40_crc.md R65). -/
def execCrcclr (s : State) : Host.Outcome State Fault Refusal :=
  (Ended.done (s.setCrc Config.crcInit) 0#32).finish

/-- `CRCPUT val` (40_crc.md R66). -/
def execCrcput (val : Byte) (s : State) : Host.Outcome State Fault Refusal :=
  (Ended.done (s.setCrc (crcByte s.crc val)) 0#32).finish

/-- `CRCFIN` (40_crc.md R67). -/
def execCrcfin (s : State) : Host.Outcome State Fault Refusal :=
  (Ended.done (s.setCrc (crcRun s.crc Config.crcPad)) 0#32).finish

end Sys2Proof.Machine
end

