-- ==== Sys2Proof/Machine/Check.lean ====
section
/-! DEFINITION. Record unpacking and the checksum validator (spec/43_check.md R85 to R87). -/

namespace Sys2Proof.Machine

/-- The checksum bytes of a record are those of its recomputed checksum (43_check.md R85). -/
def Record.sumMatches (r : Record) : Bool :=
  r.sumHigh == highByte (crc16 r.covered) && r.sumLow == lowByte (crc16 r.covered)

/-- The state `CHECK` leaves (43_check.md R85): `CRC` takes the recomputed checksum in both cases; the result
registers are published when the record is valid and cleared when it is not. -/
def State.checked (s : State) (r : Record) : State :=
  let s1 := s.setCrc (crc16 r.covered)
  if r.sumMatches then s1.setResult (validStatus r.tag) r.tag (readWorkchain r.wcByte) else s1.clearResult

/-- The body of `CHECK` (43_check.md R85, R87). -/
def checkBody (s : State) : Ended :=
  present .record s.buf.record fun r => .ended (if r.sumMatches then .ok else .checksum) 0#32 (s.checked r)

/-- `CHECK` (43_check.md R85). -/
def execCheck (s : State) : Host.Outcome State Fault Refusal := (checkBody s).finish

end Sys2Proof.Machine
end

