-- ==== Sys2Proof/Machine/Pack.lean ====
section
/-! DEFINITION. Byte-packing control (spec/41_pack.md R70, R71). -/

namespace Sys2Proof.Machine

/-- The record `PACK` builds around an account identifier (41_pack.md R70). -/
def packRecord (flg : Byte) (wc : Word32) (account : List Byte) : Record :=
  let c := crc16 (composeTag flg :: composeWorkchain wc :: account)
  ⟨composeTag flg, composeWorkchain wc, account, highByte c, lowByte c⟩

/-- The bytes 0, 1, 34 and 35 of a record written into `BUF`, the account identifier left as it is. -/
def Buffer.putAround (m : Buffer Config.recLen) (r : Record) : Option (Buffer Config.recLen) :=
  (m.put 0 [r.tag, r.wcByte]).bind fun m1 => m1.put 34 [r.sumHigh, r.sumLow]

/-- The body of `PACK` (41_pack.md R70): an illegal workchain fails before anything is written (R71). -/
def packBody (flg : Byte) (wc : Word32) (s : State) : Ended :=
  if legalWorkchain (operandInt wc) then
    present .record (s.buf.slice 2 Config.accLen) fun account =>
      let r := packRecord flg wc account
      present .record (s.buf.putAround r) fun m =>
        .done ((s.setBuf m).setCrc (crc16 r.covered)) 0#32
  else .failed .workchain s

/-- `PACK wc, flg` (41_pack.md R70). -/
def execPack (flg : Byte) (wc : Word32) (s : State) : Host.Outcome State Fault Refusal :=
  (packBody flg wc s).finish

end Sys2Proof.Machine
end

