-- ==== Sys2Proof/Machine/Codec.lean ====
section
/-! DEFINITION. The composite commands (spec/44_codec.md R90, R91, R93). -/

namespace Sys2Proof.Machine

/-- `ENCODE wc, flg`: the body of `PACK`, then the body of `B64ENC` on the record just built (44_codec.md R90). -/
def execEncode (flg : Byte) (wc : Word32) (s : State) : Host.Outcome State Fault Refusal :=
  ((packBody flg wc s).andThen b64encBody).finish

/-- The base64 stage of `DECODE`: `B64DEC`, and a failure also clears the result registers (44_codec.md R91). -/
def decodeTextBody (s : State) : Ended :=
  match b64decBody s with
  | .ended .ok data t => .ended .ok data t
  | .ended e data t => .ended e data t.clearResult
  | .absent sp => .absent sp

/-- `DECODE`: the base64 stage, then the body of `CHECK` on the new `BUF` (44_codec.md R91). -/
def execDecode (s : State) : Host.Outcome State Fault Refusal :=
  ((decodeTextBody s).andThen checkBody).finish

end Sys2Proof.Machine
end

