-- ==== Sys2Proof/Machine/System.lean ====
section
/-! DEFINITION. The system commands (spec/46_system.md R102, R103) and the register space (spec/10_state.md R20). -/

namespace Sys2Proof.Machine

/-- The register with a number, as the 32 data bits `RDR` returns, or none where there is no such register
(10_state.md R20). -/
def State.register (s : State) (reg : Nat) : Option Word32 :=
  match reg with
  | 0 => some (s.status.setWidth 32)
  | 1 => some (s.crc.setWidth 32)
  | 2 => some (s.tlen.setWidth 32)
  | 3 => some (s.tag.setWidth 32)
  | 4 => some s.wc
  | _ => none

/-- The body of `RDR` (46_system.md R103). -/
def rdrBody (reg : Byte) (s : State) : Ended :=
  match s.register (operandNat reg) with
  | some d => .done s d
  | none => .failed .index s

/-- `NOP` (46_system.md R102). -/
def execNop (s : State) : Host.Outcome State Fault Refusal := (Ended.done s 0#32).finish

/-- `RDR reg` (46_system.md R103). -/
def execRdr (reg : Byte) (s : State) : Host.Outcome State Fault Refusal := (rdrBody reg s).finish

end Sys2Proof.Machine
end

