-- ==== Sys2Proof/Machine/Dispatch.lean ====
section
/-! DEFINITION. `exec`: one arm per command, in the order of spec/opcode_table.json. -/

namespace Sys2Proof.Machine

def exec (i : Instr) (s : State) : Host.Outcome State Fault Refusal :=
  match i with
  | .nop => Sys2Proof.Machine.execNop s
  | .rdr reg => Sys2Proof.Machine.execRdr reg s
  | .wrb idx val => Sys2Proof.Machine.execWrb idx val s
  | .rdb idx => Sys2Proof.Machine.execRdb idx s
  | .wrt idx val => Sys2Proof.Machine.execWrt idx val s
  | .rdt idx => Sys2Proof.Machine.execRdt idx s
  | .setlen len => Sys2Proof.Machine.execSetlen len s
  | .crcclr => Sys2Proof.Machine.execCrcclr s
  | .crcput val => Sys2Proof.Machine.execCrcput val s
  | .crcfin => Sys2Proof.Machine.execCrcfin s
  | .pack flg wc => Sys2Proof.Machine.execPack flg wc s
  | .check => Sys2Proof.Machine.execCheck s
  | .b64enc => Sys2Proof.Machine.execB64enc s
  | .b64dec => Sys2Proof.Machine.execB64dec s
  | .encode flg wc => Sys2Proof.Machine.execEncode flg wc s
  | .decode => Sys2Proof.Machine.execDecode s

end Sys2Proof.Machine
end

