-- ==== Sys2Proof/Machine/Port.lean ====
section
/-! DEFINITION. The command port (spec/00_scope.md R6, spec/70_reset_and_hazards.md R135, R145): which command words
the block accepts and what becomes of them. -/

namespace Sys2Proof.Machine

/-- The block runs a command word: the command it spells, or `E_ILLEGAL` and no state change (30_encoding.md R47,
60_exceptions.md R123). -/
def runWord (w : CommandWord) (s : State) : Host.Outcome State Fault Refusal :=
  match decode w with
  | .ok i => exec i s
  | .error _ => .next (s.fail .illegal)

/-- The block with these seven elements and nothing at its port: no response waiting, reset released, no host. -/
def ArchState.idle (a : ArchState) : State where
  toArchState := a
  response := none
  resetLine := false
  inputs := []
  taken := []
  draws := 0

/-- The step of 00_scope.md R6, `State -> CommandWord -> State x ResponseWord`, on the seven elements of 10_state.md
R10: total on all words. The last arm is never taken: every command answers (statement `EveryCommandAnswers`). -/
def ArchState.transaction (a : ArchState) (w : CommandWord) : ArchState × ResponseWord :=
  match runWord w a.idle with
  | .next { toArchState := a', response := some r, .. } => (a', r)
  | _ => (a, 0)

/-- A command word at the port. The block is ready after reset and after each response that has been taken; what it
does with a word presented at another time is not specified (93_implementation_defined.md U3). -/
def acceptCommand (w : CommandWord) (s : State) : Host.Outcome State Fault Refusal :=
  if s.resetLine then .refused .commandDuringReset
  else
    match s.response with
    | some _ => .refused .commandBeforeResponse
    | none => runWord w s

end Sys2Proof.Machine
end

