-- ==== Sys2Proof/Machine/Step.lean ====
section
/-! DEFINITION. One step of the machine: the next thing the host does (spec/00_scope.md R6, R7), and where the host of
this model places a command word. -/

namespace Sys2Proof.Machine

/-- One step: the host's next input takes effect; where the host does nothing, the block waits. -/
def step (s : State) : Host.Outcome State Fault Refusal :=
  match s.inputs with
  | [] => .next s
  | .command w :: rest => acceptCommand w (s.withInputs rest)
  | .takeResponse :: rest => .next (s.withInputs rest).takeResponse
  | .assertReset :: rest => .next (s.withInputs rest).assertReset
  | .releaseReset :: rest => .next (s.withInputs rest).releaseReset

/-- The state in which the host presents the given word next: the word is the next input, reset is released and no
response waits, so that the very next step runs it (70_reset_and_hazards.md R145, notes/assumptions/4.md). -/
def State.withFetchWord (s : State) (nbits w : Nat) : State :=
  { s with inputs := .command (tableWord nbits w) :: s.inputs, resetLine := false, response := none }

end Sys2Proof.Machine
end

