-- ==== Sys2Proof/Machine/HostSoftware.lean ====
section
/-! DEFINITION. The host procedures around the block (spec/48_host_software.md R106 to R117) and the pseudo-commands
of spec/30_encoding.md R49. Nothing here is state or behaviour of the block (spec/00_scope.md R4): a procedure drives
the block only by `step`, through command words it presents and response words it takes. Characters are ASCII codes,
one byte each (spec/93_implementation_defined.md G1). -/

namespace Sys2Proof.Machine

/-! ### Pseudo-commands (30_encoding.md R49) -/

/-- `CRC16 v0, ..., v(n-1)`. -/
def pseudoCrc16 (bytes : List Byte) : List Instr := .crcclr :: bytes.map .crcput ++ [.crcfin]

/-- One-byte stores to the indices from `lo` up. -/
def storesFrom (one : Byte → Byte → Instr) (lo : Nat) : List Byte → List Instr
  | [] => []
  | v :: rest => one (BitVec.ofNat 8 lo) v :: storesFrom one (lo + 1) rest

/-- `LDACC h`: the account identifier into the record buffer. -/
def pseudoLdacc (account : List Byte) : List Instr := storesFrom .wrb 2 account

/-- `LDTXT "s"`: a text and its length into the text buffer. -/
def pseudoLdtxt (text : List Byte) : List Instr :=
  storesFrom .wrt 0 text ++ [.setlen (BitVec.ofNat 8 text.length)]

/-- The flags operand of `PACK` and `ENCODE` (30_encoding.md R44). -/
def flagsOperand (bounceable testnet : Bool) : Byte :=
  0b000000#6 ++ BitVec.ofBool testnet ++ BitVec.ofBool bounceable

/-! ### Raw text (48_host_software.md R106 to R108) -/

/-- A text cut at every colon. -/
def splitAtColons : List Char → List (List Char)
  | [] => [[]]
  | c :: rest =>
    if c = ':' then [] :: splitAtColons rest
    else
      match splitAtColons rest with
      | [] => [[c]]
      | part :: parts => (c :: part) :: parts

/-- The value of a hexadecimal digit of either case (R107). -/
def hexValue (c : Char) : Option (BitVec 4) :=
  let n := c.toNat
  if 0x30 ≤ n ∧ n ≤ 0x39 then some (BitVec.ofNat 4 (n - 0x30))
  else if 0x61 ≤ n ∧ n ≤ 0x66 then some (BitVec.ofNat 4 (n - 0x61 + 10))
  else if 0x41 ≤ n ∧ n ≤ 0x46 then some (BitVec.ofNat 4 (n - 0x41 + 10))
  else none

/-- The lower-case digit of a value (R108). -/
def hexDigit (v : BitVec 4) : Char :=
  if v.toNat ≤ 9 then Char.ofNat (0x30 + v.toNat) else Char.ofNat (0x61 + (v.toNat - 10))

/-- The bytes of a hexadecimal text, the first digit of a pair the high nibble; none if it is not well-formed
(R107, R108). -/
def hexBytes : List Char → Option (List Byte)
  | [] => some []
  | [_] => none
  | hi :: lo :: rest =>
    match hexValue hi, hexValue lo, hexBytes rest with
    | some h, some l, some bs => some ((h ++ l) :: bs)
    | _, _, _ => none

/-- The lower-case hexadecimal text of bytes (R108). -/
def hexText : List Byte → List Char
  | [] => []
  | v :: rest => hexDigit (v.extractLsb' 4 4) :: hexDigit (v.extractLsb' 0 4) :: hexText rest

/-- A workchain in decimal (R108). -/
def decimal : Int → List Char
  | .ofNat n => Nat.toDigits 10 n
  | .negSucc n => '-' :: Nat.toDigits 10 (n + 1)

/-- The number a string of decimal digits spells, most significant first, after the value read so far. -/
def digitsValue (sofar : Nat) : List Char → Option Nat
  | [] => some sofar
  | c :: rest =>
    if 0x30 ≤ c.toNat ∧ c.toNat ≤ 0x39 then digitsValue (sofar * 10 + (c.toNat - 0x30)) rest else none

/-- The natural number a text spells in canonical decimal: digits, no leading zero. -/
def canonicalNat : List Char → Option Nat
  | [] => none
  | c :: rest => if c = '0' ∧ rest ≠ [] then none else digitsValue 0 (c :: rest)

/-- The integer a text spells in canonical decimal: an optional `-` before a number that is not 0. -/
def canonicalInt : List Char → Option Int
  | [] => none
  | c :: rest =>
    if c = '-' then
      match canonicalNat rest with
      | some (n + 1) => some (-(n + 1 : Nat))
      | _ => none
    else (canonicalNat (c :: rest)).map Int.ofNat

/-- A text without the white space around it. DESIGN CHOICE (notes/assumptions/9.md): the spec speaks of surrounding
spaces and white space and names no characters (R107, 93_implementation_defined.md U8); here they are the space, the
tab, the line feed and the carriage return, and no other character. -/
def stripped (text : List Char) : List Char :=
  ((text.dropWhile Char.isWhitespace).reverse.dropWhile Char.isWhitespace).reverse

/-- A text without the one sign it may begin with. -/
def withoutSign : List Char → List Char
  | [] => []
  | c :: rest => if c = '+' ∨ c = '-' then rest else c :: rest

/-- A spelling of which the spec does not say whether a host reads it as an integer: nothing, or digits with a sign
or without, leading zeros and white space around them allowed (93_implementation_defined.md U8). -/
def looselySpelled (text : List Char) : Bool :=
  let t := stripped text
  let digits := withoutSign t
  t.isEmpty || (!digits.isEmpty && digits.all Char.isDigit)

/-- `parseWorkchain` (R107): a canonical decimal number is read as what it spells, a text that is no integer in any
spelling is refused, and what becomes of the loose spellings is left open. notes/assumptions/9.md. -/
def parseWorkchain (text : List Char) : Option Int :=
  match canonicalInt text with
  | some w => some w
  | none => if looselySpelled text then Config.looseWorkchain text else none

/-- A raw address: its workchain and account identifier (R106). -/
structure RawAddress where
  workchain : Int
  account : List Byte
  deriving DecidableEq, Repr

/-- The canonical text of a raw address (R106, R108). -/
def RawAddress.text (r : RawAddress) : List Char := decimal r.workchain ++ ':' :: hexText r.account

/-- A raw text parsed, or none for the document's `FormatError` (R107): exactly one colon, 64 hexadecimal digits
after it, and before it an integer that is -1 or 0 to 254. -/
def parseRaw (text : List Char) : Option RawAddress :=
  match splitAtColons text with
  | [wcText, hex] =>
    if hex.length = 64 then
      match hexBytes hex, parseWorkchain wcText with
      | some account, some w => if legalWorkchain w then some ⟨w, account⟩ else none
      | _, _ => none
    else none
  | _ => none

/-! ### Driving the block -/

/-- The failure of `encodeFriendly`: the document's `FormatError` (R109, R116). -/
inductive FormatError where
  | malformedRaw
  deriving DecidableEq, Repr

/-- The failure of `parseAddress`, in the document's two variants and no other (R113, R116). -/
inductive ParseFailure where
  | malformedInput
  | checksumMismatch
  deriving DecidableEq, Repr

/-- What a procedure leaves: its result or its failure, and the block's state; or nothing, where a step of the block
stopped. -/
abbrev HostRun (ε α : Type) := Option (Except ε α × State)

/-- The next part of a procedure, which runs only if the part before it did not fail. -/
def HostRun.andThen {ε α β : Type} (x : HostRun ε α) (k : α → State → HostRun ε β) : HostRun ε β :=
  match x with
  | some (.ok v, s) => k v s
  | some (.error e, s) => some (.error e, s)
  | none => none

/-- The failure of a procedure reported as a failure of the procedure that called it. -/
def HostRun.reportAs {ε ε' α : Type} (x : HostRun ε α) (e' : ε') : HostRun ε' α :=
  match x with
  | some (.ok v, s) => some (.ok v, s)
  | some (.error _, s) => some (.error e', s)
  | none => none

/-- The host presents one command word and takes its response (70_reset_and_hazards.md R145). -/
def transact (w : CommandWord) (s : State) : Option (ResponseWord × State) :=
  match step { s with inputs := [.command w, .takeResponse] } with
  | .next s1 =>
    match step s1 with
    | .next s2 => s2.taken.head?.map fun r => (r, s2)
    | _ => none
  | _ => none

/-- Commands issued in order, with their responses. -/
def issue : List Instr → State → Option (List ResponseWord × State)
  | [], s => some ([], s)
  | i :: rest, s =>
    match transact (encode i) s with
    | none => none
    | some (r, s1) =>
      match issue rest s1 with
      | none => none
      | some (rs, s2) => some (r :: rs, s2)

/-- The characters that `RDT` answers spell. -/
def responseChars (rs : List ResponseWord) : List Char := rs.map fun r => Char.ofNat (responseData r).toNat

/-- The one-byte loads of the `n` indices from `lo` up. -/
def loadsFrom (one : Byte → Instr) (lo n : Nat) : List Instr :=
  (List.range' lo n).map fun k => one (BitVec.ofNat 8 k)

/-- The 48 characters in `TXT` read out (R109 step 4). -/
def readText {ε : Type} (s : State) : HostRun ε (List Char) :=
  (issue (loadsFrom .rdt 0 Config.txtLen) s).map fun p => (.ok (responseChars p.1), p.2)

/-- One command, and its error code. -/
def command {ε : Type} (i : Instr) (s : State) : HostRun ε Byte :=
  (transact (encode i) s).map fun p => (.ok (responseErr p.1), p.2)

/-! ### encodeFriendly (48_host_software.md R109) -/

/-- Steps 2 and 3 of `encodeFriendly`: the account bytes loaded, then `ENCODE`. -/
def loadAndEncode (r : RawAddress) (bounceable testnet : Bool) (s : State) :
    HostRun FormatError Unit :=
  match issue (pseudoLdacc r.account) s with
  | none => none
  | some (_, s1) =>
    (command (.encode (flagsOperand bounceable testnet) (BitVec.ofInt 32 r.workchain)) s1).andThen fun err s2 =>
      if err = ErrCode.ok.code then some (.ok (), s2) else some (.error .malformedRaw, s2)

/-- `encodeFriendly(raw, bounceable, testnet)` (R109); the defaults are `true` and `false`. -/
def encodeFriendly (raw : List Char) (bounceable : Bool := true) (testnet : Bool := false) (s : State) :
    HostRun FormatError (List Char) :=
  match parseRaw raw with
  | none => some (.error .malformedRaw, s)
  | some r => (loadAndEncode r bounceable testnet s).andThen fun _ s1 => readText s1

/-! ### parseAddress (48_host_software.md R110 to R116) -/

/-- The result of `parseAddress` (R114). -/
structure ParsedAddress where
  inputType : List Char
  workchain : Int
  testnet : Bool
  raw : List Char
  bounceable : List Char
  unbounceable : List Char
  deriving DecidableEq, Repr

/-- The label `inputType` (R114). -/
def label (workchain : Int) (wasRaw bounceable : Bool) : List Char :=
  (if workchain = -1 then "Masterchain".toList else "Basechain ".toList ++ decimal workchain)
    ++ (if wasRaw then " Raw".toList else if bounceable then " Bounceable".toList else " Unbounceable".toList)
    ++ " TON Address".toList

/-- The fixed failure message of the document's contract (R116). -/
def failureMessage : List Char := "Failed to parse address :(".toList

/-- The result for a caller that expects the one failure message: the failures collapsed into it, the whole result kept
(R116). -/
def collapsed (result : Except ParseFailure ParsedAddress) : Except (List Char) ParsedAddress :=
  match result with
  | .ok p => .ok p
  | .error _ => .error failureMessage

/-- The two re-encodings and the result, from what was read after `DECODE` (R114, R115). -/
def buildResult (wasRaw : Bool) (status : Byte) (wc : Word32) (account : List Byte) (s : State) :
    HostRun ParseFailure ParsedAddress :=
  let reencode (bounceable : Bool) (s : State) : HostRun ParseFailure (List Char) :=
    (command (.encode (flagsOperand bounceable (statusTst status)) wc) s).andThen fun _ s1 => readText s1
  (reencode true s).andThen fun b s1 =>
    (reencode false s1).andThen fun u s2 =>
      some (.ok ⟨label wc.toInt wasRaw (statusBnc status), wc.toInt, statusTst status,
        RawAddress.text ⟨wc.toInt, account⟩, b, u⟩, s2)

/-- `DECODE` and its outcome (R113), then the fields read out (R114) and the result built. -/
def decodeAndBuild (wasRaw : Bool) (s : State) : HostRun ParseFailure ParsedAddress :=
  (command .decode s).andThen fun err s1 =>
    if err = ErrCode.length.code ∨ err = ErrCode.alphabet.code then some (.error .malformedInput, s1)
    else if err = ErrCode.checksum.code then some (.error .checksumMismatch, s1)
    else
      match issue (.rdr 0 :: .rdr 4 :: loadsFrom .rdb 2 Config.accLen) s1 with
      | some (st :: wc :: bytes, s2) =>
        buildResult wasRaw ((responseData st).setWidth 8) (responseData wc)
          (bytes.map fun r => (responseData r).setWidth 8) s2
      | _ => none

/-- The raw path (R111): a text that `encodeFriendly` refuses is malformed raw input (R116); otherwise the text that
`encodeFriendly` left in `TXT` is decoded without a reload. That it is read out all the same is the model's choice, one
of the two ways R111 calls equivalent (notes/assumptions/12.md). -/
def rawPath (input : List Char) (testnetFlag : Bool) (s : State) : HostRun ParseFailure ParsedAddress :=
  ((encodeFriendly input true testnetFlag s).reportAs .malformedInput).andThen fun _ s1 => decodeAndBuild true s1

/-- The friendly path (R112): a character that does not fit a byte is malformed input, without a `DECODE`. DESIGN
CHOICE (notes/assumptions/12.md): R112 does not say whether the characters before such a one are loaded first; here
every character is tested before the first `WRT`, so that no command at all is issued. -/
def friendlyPath (input : List Char) (s : State) : HostRun ParseFailure ParsedAddress :=
  if input.all (fun c => c.toNat ≤ 255) then
    match issue (pseudoLdtxt (input.map fun c => BitVec.ofNat 8 c.toNat)) s with
    | some (_, s1) => decodeAndBuild false s1
    | none => none
  else some (.error .malformedInput, s)

/-- `parseAddress(input, testnetFlag)` (R110): the dispatch is on the length alone. -/
def parseAddress (input : List Char) (testnetFlag : Bool := false) (s : State) :
    HostRun ParseFailure ParsedAddress :=
  if input.length > 64 then rawPath input testnetFlag s else friendlyPath input s

end Sys2Proof.Machine
end

