-- ==== Sys2Proof/Safety.lean ====
section
/-! DEFINITION. What counts as a safe state and a safe step, and the words the statements about the machine use: the
invariant of the spec's state rules, what a cooperating host does, runs of commands, which commands a checksum stream
tolerates, and which inputs and outputs a command has. -/

namespace Sys2Proof.Machine

/-! ### The invariant -/

/-- Both buffers list exactly their locations (20_memory.md R25), as their type says. -/
abbrev State.wf (s : State) : Prop :=
  s.buf.cells.wf Config.recLen ∧ s.txt.cells.wf Config.txtCap

/-- A response word the block can produce: bits 63:40 zero, one of the seven codes, data 0 on every failure
(30_encoding.md R45, R46, 60_exceptions.md R120). -/
abbrev LegalResponse (r : ResponseWord) : Prop :=
  r.extractLsb' 40 24 = 0#24 ∧ responseErr r ≤ 0x06#8 ∧ (responseErr r ≠ 0x00#8 → responseData r = 0#32)

/-- What the state rules say of every state the machine can be in. -/
structure Inv (s : State) : Prop where
  /-- The buffers keep their form (20_memory.md R25). -/
  buffers : s.wf
  /-- `TLEN` is 0 to 64 (10_state.md R15). -/
  tlen : s.tlen.toNat ≤ 64
  /-- Bits 7:3 of `STATUS` are 0 (10_state.md R17). -/
  statusReserved : s.status.extractLsb' 3 5 = 0#5
  /-- With `VALID` 0, `BNC`, `TST`, `TAG` and `WC` are 0 (10_state.md R17, R18, R19). -/
  cleared : statusValid s.status = false →
    statusBnc s.status = false ∧ statusTst s.status = false ∧ s.tag = 0x00#8 ∧ s.wc = 0x00000000#32
  /-- With `VALID` 1, `BNC` and `TST` are those of the tag byte in `TAG` (10_state.md R17, R18). -/
  published : statusValid s.status = true →
    statusBnc s.status = (s.tag &&& 0x40#8 == 0x00#8) ∧ statusTst s.status = (s.tag &&& 0x80#8 != 0x00#8)
  /-- `WC` is -1 or 0 to 254 (10_state.md R19). -/
  workchain : s.wc = 0xFFFFFFFF#32 ∨ s.wc.toNat ≤ 254
  /-- The response that waits and those taken are response words (30_encoding.md R45). -/
  responses : ∀ r, s.response = some r ∨ r ∈ s.taken → LegalResponse r
  /-- While reset is asserted no response waits (70_reset_and_hazards.md R135). -/
  silent : s.resetLine = true → s.response = none

/-! ### Safe steps -/

/-- The host presents a command only while reset is released and no response waits (70_reset_and_hazards.md R135,
R145). -/
def HostReady (s : State) : Prop :=
  ∀ w rest, s.inputs = .command w :: rest → s.resetLine = false ∧ s.response = none

/-- The step answers a next state: it neither faults nor is refused. -/
def StepsOn (s : State) : Prop := ∃ t, step s = .next t

/-! ### Texts and records, one byte at a time -/

/-- The space holds the bytes from an address up (00_scope.md R8). -/
abbrev State.holds (s : State) (sp : Space) (lo : Nat) (bytes : List Byte) : Prop :=
  ∀ k, k < bytes.length → s.readByte sp (lo + k) = bytes[k]?

/-- The tag byte for a flags operand (30_encoding.md R51). -/
abbrev tagFor (flg : Byte) : Byte :=
  (if flg.getLsbD 0 then 0x11#8 else 0x51#8) ||| (if flg.getLsbD 1 then 0x80#8 else 0x00#8)

/-- The workchain byte for a legal workchain operand (30_encoding.md R53). -/
abbrev wcByteFor (wc : Word32) : Byte := if wc = 0xFFFFFFFF#32 then 0xFF#8 else wc.extractLsb' 0 8

/-- A workchain `PACK` and `ENCODE` accept: -1 or 0 to 254 (41_pack.md R71). -/
abbrev LegalWc (wc : Word32) : Prop := wc.toInt = -1 ∨ (0 ≤ wc.toInt ∧ wc.toInt ≤ 254)

/-- The 34 bytes `PACK` computes the checksum of (41_pack.md R70). -/
abbrev packedPrefix (flg : Byte) (wc : Word32) (account : List Byte) : List Byte :=
  [tagFor flg, wcByteFor wc] ++ account

/-- The 36 bytes of the record `PACK` builds (41_pack.md R70, 30_encoding.md R50). -/
abbrev packedRecord (flg : Byte) (wc : Word32) (account : List Byte) : List Byte :=
  packedPrefix flg wc account ++
    [(crc16 (packedPrefix flg wc account)).extractLsb' 8 8, (crc16 (packedPrefix flg wc account)).extractLsb' 0 8]

/-- The byte at an index below 48 of `TXT` is an invalid character (30_encoding.md R56). -/
def TextHasInvalid (s : State) : Prop :=
  ∃ i c, i < 48 ∧ s.readByte .text i = some c ∧ b64val c = none

/-- The record bytes `recAt` and the characters `txtAt` are related by the encoding half of the grouping in every one
of the 12 groups (30_encoding.md R58, 42_base64.md R75). -/
def GroupsEncoded (recAt txtAt : Nat → Option Byte) : Prop :=
  ∀ g x y z, g < 12 → recAt (3 * g) = some x → recAt (3 * g + 1) = some y → recAt (3 * g + 2) = some z →
    txtAt (4 * g) = some (b64chr (x.extractLsb' 2 6)) ∧
    txtAt (4 * g + 1) = some (b64chr (x.extractLsb' 0 2 ++ y.extractLsb' 4 4)) ∧
    txtAt (4 * g + 2) = some (b64chr (y.extractLsb' 0 4 ++ z.extractLsb' 6 2)) ∧
    txtAt (4 * g + 3) = some (b64chr (z.extractLsb' 0 6))

/-- The characters `txtAt` and the record bytes `recAt` are related by the decoding half of the grouping in every one
of the 12 groups (30_encoding.md R58, 42_base64.md R77). -/
def GroupsDecoded (txtAt recAt : Nat → Option Byte) : Prop :=
  ∀ g c0 c1 c2 c3 v0 v1 v2 v3, g < 12 →
    txtAt (4 * g) = some c0 → txtAt (4 * g + 1) = some c1 → txtAt (4 * g + 2) = some c2 →
    txtAt (4 * g + 3) = some c3 →
    b64val c0 = some v0 → b64val c1 = some v1 → b64val c2 = some v2 → b64val c3 = some v3 →
    recAt (3 * g) = some (v0 ++ v1.extractLsb' 4 2) ∧
    recAt (3 * g + 1) = some (v1.extractLsb' 0 4 ++ v2.extractLsb' 2 4) ∧
    recAt (3 * g + 2) = some (v2.extractLsb' 0 2 ++ v3)

/-- What `CHECK` makes of the record whose bytes are `bytes`, given the state before it: `CRC`, `STATUS`, `TAG`, `WC`
and the response (43_check.md R85). -/
def checkedState (s : State) (bytes : List Byte) : State :=
  let c := crc16 (bytes.take 34)
  let tag := bytes.getD 0 0
  let wcByte := bytes.getD 1 0
  if bytes.getD 34 0 = c.extractLsb' 8 8 ∧ bytes.getD 35 0 = c.extractLsb' 0 8 then
    { s with
      crc := c
      status := 0b00000#5 ++ BitVec.ofBool (tag.getLsbD 7) ++ BitVec.ofBool (!tag.getLsbD 6) ++ 0b1#1
      tag := tag
      wc := if wcByte = 0xFF#8 then 0xFFFFFFFF#32 else wcByte.setWidth 32
      response := some 0x0000000000000000#64 }
  else
    { s with
      crc := c
      status := 0x00#8
      tag := 0x00#8
      wc := 0x00000000#32
      response := some 0x0000000600000000#64 }

/-! ### Texts a host is given -/

/-- A text of which the friendly form fails before its checksum is looked at: not 48 characters long, or with a
character that fits no byte or has no base64 value (48_host_software.md R112, R113, 42_base64.md R78, R79). -/
def MalformedFriendly (text : List Char) : Prop :=
  text.length ≠ 48 ∨ ∃ c ∈ text, 255 < c.toNat ∨ b64val (BitVec.ofNat 8 c.toNat) = none

/-! ### Sequences of commands -/

/-- Commands run one after another, each to completion (20_memory.md R34). -/
def execAll : List Instr → State → Host.Outcome State Fault Refusal
  | [], s => .next s
  | i :: rest, s =>
    match exec i s with
    | .next t => execAll rest t
    | .fault r => .fault r
    | .refused r => .refused r

/-- The commands that may stand inside a checksum stream because they do not write `CRC`; a `DECODE` only where it
fails at its base64 stage (40_crc.md R68). -/
def LeavesStream (i : Instr) (s : State) : Prop :=
  match i with
  | .nop => True
  | .rdr _ => True
  | .wrb _ _ => True
  | .rdb _ => True
  | .wrt _ _ => True
  | .rdt _ => True
  | .setlen _ => True
  | .crcclr => False
  | .crcput _ => False
  | .crcfin => False
  | .pack _ _ => False
  | .check => False
  | .b64enc => True
  | .b64dec => True
  | .encode _ _ => False
  | .decode => s.tlen ≠ 48#7 ∨ TextHasInvalid s

/-- The commands that write neither `TXT` nor `TLEN` (10_state.md R14, R15, 44_codec.md R94). -/
def LeavesText : Instr → Prop
  | .nop => True
  | .rdr _ => True
  | .wrb _ _ => True
  | .rdb _ => True
  | .wrt _ _ => False
  | .rdt _ => True
  | .setlen _ => False
  | .crcclr => True
  | .crcput _ => True
  | .crcfin => True
  | .pack _ _ => True
  | .check => True
  | .b64enc => False
  | .b64dec => True
  | .encode _ _ => False
  | .decode => True

/-- A stretch of a checksum stream that feeds the given bytes, other commands standing between (40_crc.md R68). -/
inductive Stream : List Byte → State → State → Prop where
  | here (s : State) : Stream [] s s
  | put (v : Byte) (vs : List Byte) (s t u : State) :
    exec (.crcput v) s = .next t → Stream vs t u → Stream (v :: vs) s u
  | other (i : Instr) (vs : List Byte) (s t u : State) :
    LeavesStream i s → exec i s = .next t → Stream vs t u → Stream vs s u

/-! ### What a command reads and writes (10_state.md R23) -/

/-- Two states agree on every input that 10_state.md R23 lists for the command. -/
def SameInputs (i : Instr) (s t : State) : Prop :=
  match i with
  | .nop => True
  | .rdr reg => s.register reg.toNat = t.register reg.toNat
  | .wrb _ _ => True
  | .rdb idx => s.readByte .record idx.toNat = t.readByte .record idx.toNat
  | .wrt _ _ => True
  | .rdt idx => s.readByte .text idx.toNat = t.readByte .text idx.toNat
  | .setlen _ => True
  | .crcclr => True
  | .crcput _ => s.crc = t.crc
  | .crcfin => s.crc = t.crc
  | .pack _ _ => s.buf.slice 2 32 = t.buf.slice 2 32
  | .check => s.buf.slice 0 36 = t.buf.slice 0 36
  | .b64enc => s.buf.slice 0 36 = t.buf.slice 0 36
  | .b64dec => s.tlen = t.tlen ∧ s.txt.slice 0 48 = t.txt.slice 0 48
  | .encode _ _ => s.buf.slice 2 32 = t.buf.slice 2 32
  | .decode => s.tlen = t.tlen ∧ s.txt.slice 0 48 = t.txt.slice 0 48

/-- An element was written with one and the same value in two runs, or left as it was in both. -/
def WrittenAlike {α : Type} (before₁ after₁ before₂ after₂ : α) : Prop :=
  after₁ = after₂ ∨ (after₁ = before₁ ∧ after₂ = before₂)

/-- Two runs of one command produce the same response and write every state element alike, byte by byte in the
buffers. -/
def SameOutputs (s₁ t₁ s₂ t₂ : State) : Prop :=
  t₁.response = t₂.response ∧
  (∀ sp a, WrittenAlike (s₁.readByte sp a) (t₁.readByte sp a) (s₂.readByte sp a) (t₂.readByte sp a)) ∧
  WrittenAlike s₁.tlen t₁.tlen s₂.tlen t₂.tlen ∧
  WrittenAlike s₁.crc t₁.crc s₂.crc t₂.crc ∧
  WrittenAlike s₁.status t₁.status s₂.status t₂.status ∧
  WrittenAlike s₁.tag t₁.tag s₂.tag t₂.tag ∧
  WrittenAlike s₁.wc t₁.wc s₂.wc t₂.wc

/-- The failure codes a command can answer once decoded (60_exceptions.md R122). -/
def failureCodes : Instr → List Byte
  | .nop => []
  | .rdr _ => [0x02]
  | .wrb _ _ => [0x02]
  | .rdb _ => [0x02]
  | .wrt _ _ => [0x02]
  | .rdt _ => [0x02]
  | .setlen _ => [0x02]
  | .crcclr => []
  | .crcput _ => []
  | .crcfin => []
  | .pack _ _ => [0x03]
  | .check => [0x06]
  | .b64enc => []
  | .b64dec => [0x04, 0x05]
  | .encode _ _ => [0x03]
  | .decode => [0x04, 0x05, 0x06]

/-- One byte of the table-free "direct" form of CRC-16/XMODEM: the byte is XORed into the top of the register and
eight steps with the bit 0 follow (40_crc.md R64 (d)). -/
def crcDirectByte (r : Sum) (v : Byte) : Sum := crcByte (r ^^^ (v.setWidth 16 <<< 8)) 0x00#8

/-- The table-free "direct" form of CRC-16/XMODEM, without padding (40_crc.md R64 (d)). The machine does not use
it. -/
def crcDirect (r : Sum) (p : List Byte) : Sum := p.foldl crcDirectByte r

/-- The byte sequence with one bit flipped: bit `k` of the byte at index `i` (40_crc.md R69). -/
def flipBit (p : List Byte) (i k : Nat) : List Byte := p.modify i fun v => v ^^^ BitVec.twoPow 8 k

end Sys2Proof.Machine
end

