-- ==== Sys2Proof/Certificates/Slice0/Obligations.lean ====
section
/-! DEFINITION. The statements for the provers, from the numbered rules of spec/. A response word is written out
(spec/30_encoding.md R45, spec/60_exceptions.md R120): `0x0000000N00000000` is error code N with data 0. A record
update of `s` says that every other state element, the host's inputs and the responses taken are unchanged. -/

open Sys2Proof Sys2Proof.Machine

/-! ### The command word (30_encoding.md) -/

/-- R40 to R44: a few words written out from the fields decode to the commands they spell. -/
def Obligations.WordsFromTheFieldTableDecode : Prop :=
  Sys2Proof.decode 0x0000000000000000#64 = .ok .nop ∧
  Sys2Proof.decode 0x0104000000000000#64 = .ok (.rdr 0x04) ∧
  Sys2Proof.decode 0x1023FE0000000000#64 = .ok (.wrb 0x23 0xFE) ∧
  Sys2Proof.decode 0x1430000000000000#64 = .ok (.setlen 0x30) ∧
  Sys2Proof.decode 0x2100410000000000#64 = .ok (.crcput 0x41) ∧
  Sys2Proof.decode 0x30030000FFFFFFFF#64 = .ok (.pack 0x03 0xFFFFFFFF) ∧
  Sys2Proof.decode 0x3004000000000000#64 = .error .reservedFlags ∧
  Sys2Proof.decode 0x1002830100000000#64 = .error .reservedZ

/-- R41, R42: the word of a command that can be spelled decodes to that command, with every operand. -/
def Obligations.DecodeOfEncodeIsTheCommand : Prop :=
  ∀ i : Instr, i.wellFormed = true → Sys2Proof.decode (encode i) = .ok i

/-- R41, R47: a word that decodes is the one word of the command it decodes to. -/
def Obligations.EveryDecodedWordIsTheCommandsOwn : Prop :=
  ∀ (w : CommandWord) (i : Instr), Sys2Proof.decode w = .ok i → i.wellFormed = true ∧ encode i = w

/-- R41: a word spells a command exactly when it matches a row of the mask and match table, and the command is that
row's. -/
def Obligations.DecodeAcceptsExactlyTheTable : Prop :=
  (∀ w : CommandWord, (∃ i, Sys2Proof.decode w = .ok i) ↔ ∃ r ∈ opTable, w &&& r.mask = r.pattern) ∧
  (∀ (w : CommandWord) (i : Instr), Sys2Proof.decode w = .ok i → w &&& (rowOf i).mask = (rowOf i).pattern)

/-- R47: a word matches one row of the table at most, and a word that matches none answers `E_ILLEGAL` with data 0
and changes no state. -/
def Obligations.IllegalWordChangesNothing : Prop :=
  (∀ (w : CommandWord) (r r' : Row), r ∈ opTable → r' ∈ opTable →
    w &&& r.mask = r.pattern → w &&& r'.mask = r'.pattern → r = r') ∧
  (∀ (s : State) (w : CommandWord), (¬ ∃ r ∈ opTable, w &&& r.mask = r.pattern) →
    runWord w s = .next { s with response := some 0x0000000100000000#64 })

/-! ### The step (00_scope.md R6, 70_reset_and_hazards.md R135, R145) -/

/-- R6: when the host presents a word that decodes to a command, the step is `exec` of that command at the state with
the word taken from the host's list; a word that decodes to none answers `E_ILLEGAL`. The list is the model's own
(notes/assumptions/2.md). -/
def Obligations.StepRunsTheDecodedCommand : Prop :=
  (∀ (s : State) (w : CommandWord) (rest : List HostInput) (i : Instr),
    s.inputs = .command w :: rest → s.resetLine = false → s.response = none →
    Sys2Proof.decode w = .ok i → step s = exec i { s with inputs := rest }) ∧
  (∀ (s : State) (w : CommandWord) (rest : List HostInput) (e : Illegal),
    s.inputs = .command w :: rest → s.resetLine = false → s.response = none →
    Sys2Proof.decode w = .error e →
    step s = .next { s with inputs := rest, response := some 0x0000000100000000#64 })

/-- R135, R145, U3: a command word presented while reset is asserted, or before the last response has been taken, is
refused by name, whatever the word is. The refusal is the model's choice (notes/assumptions/5.md). -/
def Obligations.UntimelyCommandIsRefused : Prop :=
  (∀ (s : State) (w : CommandWord) (rest : List HostInput),
    s.inputs = .command w :: rest → s.resetLine = true → step s = .refused .commandDuringReset) ∧
  (∀ (s : State) (w : CommandWord) (rest : List HostInput) (r : ResponseWord),
    s.inputs = .command w :: rest → s.resetLine = false → s.response = some r →
    step s = .refused .commandBeforeResponse)

/-- R145: each response waits until the host takes it, and the port is then free. The port as a field, and the list
of the host's actions, are the model's (notes/assumptions/2.md). -/
def Obligations.ResponseIsTakenOnce : Prop :=
  ∀ (s : State) (r : ResponseWord) (rest : List HostInput),
    s.inputs = .takeResponse :: rest → s.response = some r →
    step s = .next { s with inputs := rest, response := none, taken := r :: s.taken }

/-- R135: asserting reset abandons a waiting response; releasing it leaves the reset state, whose buffer contents are
some bytes, with no command in progress. Reset as two events of the host's list is the model's choice
(notes/assumptions/3.md). -/
def Obligations.ResetLeavesTheResetState : Prop :=
  ∀ (s : State) (rest : List HostInput), s.inputs = .assertReset :: .releaseReset :: rest →
    ∃ t u b x, step s = .next t ∧ t.resetLine = true ∧ t.response = none ∧ step t = .next u ∧
      u = { State.init b x with inputs := rest, taken := s.taken, draws := u.draws }

/-- R21, R136: the reset state is one of those with drawn buffer contents, and in each of these the registers have
the reset values and every buffer byte is the one drawn. -/
def Obligations.ResetValuesAreThoseOfTheSpec : Prop :=
  (∃ b x, State.reset = State.init b x) ∧
  ∀ b x : Nat → Byte,
    (State.init b x).tlen = 0#7 ∧ (State.init b x).crc = 0x0000#16 ∧ (State.init b x).status = 0x00#8 ∧
    (State.init b x).tag = 0x00#8 ∧ (State.init b x).wc = 0x00000000#32 ∧
    (∀ a, (State.init b x).readByte .record a = if a < 36 then some (b a) else none) ∧
    (∀ a, (State.init b x).readByte .text a = if a < 64 then some (x a) else none)

/-! ### System commands (46_system.md) -/

/-- R102: `NOP` answers `OK` and changes nothing; every other word with opcode 0 is illegal. -/
def Obligations.NopChangesNothing : Prop :=
  Sys2Proof.decode 0x0000000000000000#64 = .ok .nop ∧
  (∀ w : CommandWord, fieldOp w = 0x00#8 → w ≠ 0#64 → ∃ e, Sys2Proof.decode w = .error e) ∧
  (∀ s : State, exec .nop s = .next { s with response := some 0x0000000000000000#64 })

/-- R103, R20: `RDR` answers the register with the given number in 32 bits, `E_INDEX` for 5 to 255, and changes no
state. -/
def Obligations.RdrAnswersTheRegister : Prop :=
  (∀ reg : Byte, Sys2Proof.decode (c64 0x01#8 reg 0#8 0#8 0#32) = .ok (.rdr reg)) ∧
  ∀ (s : State) (reg : Byte), exec (.rdr reg) s = .next { s with response := some (
    if reg = 0x00 then s.status.setWidth 64
    else if reg = 0x01 then s.crc.setWidth 64
    else if reg = 0x02 then s.tlen.setWidth 64
    else if reg = 0x03 then s.tag.setWidth 64
    else if reg = 0x04 then s.wc.setWidth 64
    else 0x0000000200000000#64) }

/-! ### Buffer access (45_buffer_access.md) -/

/-- R95: `WRB` writes one byte of `BUF` at an index up to 35 and nothing else; beyond it fails with `E_INDEX` and
writes nothing. -/
def Obligations.WrbWritesOneRecordByte : Prop :=
  (∀ idx val : Byte, Sys2Proof.decode (c64 0x10#8 idx val 0#8 0#32) = .ok (.wrb idx val)) ∧
  (∀ (s : State) (idx val : Byte), idx.toNat ≤ 35 →
    ∃ t, exec (.wrb idx val) s = .next t ∧
      t.readByte .record idx.toNat = some val ∧
      (∀ a, a ≠ idx.toNat → t.readByte .record a = s.readByte .record a) ∧
      t = { s with buf := t.buf, response := some 0x0000000000000000#64 }) ∧
  (∀ (s : State) (idx val : Byte), 36 ≤ idx.toNat →
    exec (.wrb idx val) s = .next { s with response := some 0x0000000200000000#64 })

/-- R96: `RDB` answers one byte of `BUF`, zero-extended; beyond index 35 it fails with `E_INDEX`; no state changes. -/
def Obligations.RdbAnswersOneRecordByte : Prop :=
  (∀ idx : Byte, Sys2Proof.decode (c64 0x11#8 idx 0#8 0#8 0#32) = .ok (.rdb idx)) ∧
  (∀ (s : State) (idx : Byte), idx.toNat ≤ 35 →
    ∃ v, s.readByte .record idx.toNat = some v ∧
      exec (.rdb idx) s = .next { s with response := some (v.setWidth 64) }) ∧
  (∀ (s : State) (idx : Byte), 36 ≤ idx.toNat →
    exec (.rdb idx) s = .next { s with response := some 0x0000000200000000#64 })

/-- R97: `WRT` writes one character code of `TXT` at an index up to 63 and nothing else, `TLEN` included; beyond it
fails with `E_INDEX` and writes nothing. -/
def Obligations.WrtWritesOneCharacter : Prop :=
  (∀ idx val : Byte, Sys2Proof.decode (c64 0x12#8 idx val 0#8 0#32) = .ok (.wrt idx val)) ∧
  (∀ (s : State) (idx val : Byte), idx.toNat ≤ 63 →
    ∃ t, exec (.wrt idx val) s = .next t ∧
      t.readByte .text idx.toNat = some val ∧
      (∀ a, a ≠ idx.toNat → t.readByte .text a = s.readByte .text a) ∧
      t = { s with txt := t.txt, response := some 0x0000000000000000#64 }) ∧
  (∀ (s : State) (idx val : Byte), 64 ≤ idx.toNat →
    exec (.wrt idx val) s = .next { s with response := some 0x0000000200000000#64 })

/-- R98: `RDT` answers one character code of `TXT`, zero-extended, whatever `TLEN` is; beyond index 63 it fails with
`E_INDEX`; no state changes. -/
def Obligations.RdtAnswersOneCharacter : Prop :=
  (∀ idx : Byte, Sys2Proof.decode (c64 0x13#8 idx 0#8 0#8 0#32) = .ok (.rdt idx)) ∧
  (∀ (s : State) (idx : Byte), idx.toNat ≤ 63 →
    ∃ v, s.readByte .text idx.toNat = some v ∧
      exec (.rdt idx) s = .next { s with response := some (v.setWidth 64) }) ∧
  (∀ (s : State) (idx : Byte), 64 ≤ idx.toNat →
    exec (.rdt idx) s = .next { s with response := some 0x0000000200000000#64 })

/-- R99: `SETLEN` sets `TLEN` to a length up to 64; a longer one fails with `E_INDEX` and leaves `TLEN`. -/
def Obligations.SetlenSetsTheLength : Prop :=
  (∀ len : Byte, Sys2Proof.decode (c64 0x14#8 len 0#8 0#8 0#32) = .ok (.setlen len)) ∧
  (∀ (s : State) (len : Byte), len.toNat ≤ 64 →
    ∃ t, exec (.setlen len) s = .next t ∧ t.tlen.toNat = len.toNat ∧
      t = { s with tlen := t.tlen, response := some 0x0000000000000000#64 }) ∧
  (∀ (s : State) (len : Byte), 65 ≤ len.toNat →
    exec (.setlen len) s = .next { s with response := some 0x0000000200000000#64 })

/-! ### The checksum engine (40_crc.md) -/

/-- R60: the engine's step is the document's arithmetic on natural numbers, always fits 16 bits, and is the step on
bit vectors: shift the bit in from the right, and XOR with `0x1021` when the bit shifted out is 1. The second form is
the spec's own inference ("The same step on bit vectors, which a model may use instead [derived: ..."). -/
def Obligations.CrcBitIsTheShiftAndXor : Prop :=
  ∀ (r : Sum) (i : Bool),
    (crcBit r i).toNat = (if r.toNat * 2 + i.toNat > 0xFFFF then ((r.toNat * 2 + i.toNat) &&& 0xFFFF) ^^^ 0x1021
      else r.toNat * 2 + i.toNat) ∧
    crcBit r i = (r.extractLsb' 0 15 ++ BitVec.ofBool i) ^^^ (if r.getLsbD 15 then 0x1021#16 else 0x0000#16)

/-- R61: the byte is fed bit 7 first, bit 0 last. -/
def Obligations.CrcByteFeedsBitSevenFirst : Prop :=
  ∀ (r : Sum) (v : Byte), crcByte r v = [7, 6, 5, 4, 3, 2, 1, 0].foldl (fun r k => crcBit r (v.getLsbD k)) r

/-- R62, R63: the register is a left fold of `crc_byte`, so feeding one sequence after another is feeding their
concatenation; the checksum of a payload is the fold from 0 over the payload and two zero bytes, and its two bytes are
`register >> 8` and `register & 0xFF`. The third clause is the spec's own inference (R62: "Consequence used by the
streaming commands: ... [derived: from the definition of a left fold]"). -/
def Obligations.ChecksumFoldsThePaddedPayload : Prop :=
  (∀ r : Sum, crcRun r [] = r) ∧
  (∀ (r : Sum) (v : Byte) (p : List Byte), crcRun r (v :: p) = crcRun (crcByte r v) p) ∧
  (∀ (r : Sum) (p q : List Byte), crcRun r (p ++ q) = crcRun (crcRun r p) q) ∧
  (∀ p : List Byte, crc16 p = crcByte (crcByte (crcRun 0x0000#16 p) 0x00#8) 0x00#8) ∧
  (∀ c : Sum, (highByte c).toNat = c.toNat >>> 8 ∧ (lowByte c).toNat = c.toNat &&& 0xFF)

/-- R64 (a), (b): the checksum of any all-zero payload is 0, and leading zero bytes are invisible. -/
def Obligations.LeadingZeroBytesAreInvisible : Prop :=
  (∀ n : Nat, crc16 (List.replicate n 0x00#8) = 0x0000#16) ∧
  (∀ (n : Nat) (p : List Byte), crc16 (List.replicate n 0x00#8 ++ p) = crc16 p)

/-- R64 (d): the algorithm with its padding equals the table-free direct form without padding. -/
def Obligations.PaddedFormIsTheDirectForm : Prop :=
  ∀ p : List Byte, crc16 p = crcDirect 0x0000#16 p

/-- R69: two payloads that differ in exactly one bit have different checksums. -/
def Obligations.SingleBitErrorsChangeTheChecksum : Prop :=
  ∀ (p : List Byte) (i k : Nat), i < p.length → k < 8 → crc16 (flipBit p i k) ≠ crc16 p

/-- R65: `CRCCLR` clears `CRC` and changes nothing else. -/
def Obligations.CrcclrClearsTheRegister : Prop :=
  Sys2Proof.decode 0x2000000000000000#64 = .ok .crcclr ∧
  ∀ s : State, exec .crcclr s = .next { s with crc := 0x0000#16, response := some 0x0000000000000000#64 }

/-- R66: `CRCPUT` feeds one byte to `CRC`, whatever the register holds, and changes nothing else. -/
def Obligations.CrcputFeedsOneByte : Prop :=
  (∀ val : Byte, Sys2Proof.decode (c64 0x21#8 0#8 val 0#8 0#32) = .ok (.crcput val)) ∧
  ∀ (s : State) (val : Byte),
    exec (.crcput val) s = .next { s with crc := crcByte s.crc val, response := some 0x0000000000000000#64 }

/-- R67: `CRCFIN` feeds the two padding bytes and changes nothing else. -/
def Obligations.CrcfinFeedsThePadding : Prop :=
  Sys2Proof.decode 0x2200000000000000#64 = .ok .crcfin ∧
  ∀ s : State, exec .crcfin s =
    .next { s with crc := crcByte (crcByte s.crc 0x00#8) 0x00#8, response := some 0x0000000000000000#64 }

/-- R68: a stream of `CRCPUT` between `CRCCLR` and `CRCFIN`, with commands between them that do not write `CRC`,
leaves the checksum of the bytes fed. The spec marks the law as its own inference from R62, R63 and R65 to R67. -/
def Obligations.StreamedChecksumIsCrc16 : Prop :=
  ∀ (vs : List Byte) (s s₁ s₂ s₃ : State),
    exec .crcclr s = .next s₁ → Stream vs s₁ s₂ → exec .crcfin s₂ = .next s₃ → s₃.crc = crc16 vs

/-! ### Packing (41_pack.md) -/

/-- R70: `PACK` with a legal workchain writes the tag byte, the workchain byte and the checksum around the account
identifier in `BUF`, leaves the checksum in `CRC`, and changes nothing else. -/
def Obligations.PackBuildsTheRecord : Prop :=
  (∀ (flg : Byte) (wc : Word32), flg &&& 0xFC#8 = 0#8 →
    Sys2Proof.decode (c64 0x30#8 flg 0#8 0#8 wc) = .ok (.pack flg wc)) ∧
  (∀ (s : State) (flg : Byte) (wc : Word32) (account : List Byte),
    LegalWc wc → account.length = 32 → s.holds .record 2 account →
    ∃ t, exec (.pack flg wc) s = .next t ∧
      t.holds .record 0 (packedRecord flg wc account) ∧
      (∀ a, a ≠ 0 → a ≠ 1 → a ≠ 34 → a ≠ 35 → t.readByte .record a = s.readByte .record a) ∧
      t = { s with buf := t.buf, crc := crc16 (packedPrefix flg wc account),
                   response := some 0x0000000000000000#64 }) ∧
  (∀ (s : State) (flg : Byte) (wc : Word32), ¬ LegalWc wc →
    exec (.pack flg wc) s = .next { s with response := some 0x0000000300000000#64 })

/-- R71: `PACK` and `ENCODE` accept the workchains -1 and 0 to 254 and refuse every other with `E_WORKCHAIN`, before
writing anything. -/
def Obligations.WorkchainRangeIsChecked : Prop :=
  (∀ (s : State) (flg : Byte) (wc : Word32), LegalWc wc →
    (∃ t, exec (.pack flg wc) s = .next t ∧ t.response = some 0x0000000000000000#64) ∧
    (∃ t, exec (.encode flg wc) s = .next t ∧ t.response = some 0x0000000000000000#64)) ∧
  (∀ (s : State) (flg : Byte) (wc : Word32), ¬ LegalWc wc →
    exec (.pack flg wc) s = .next { s with response := some 0x0000000300000000#64 } ∧
    exec (.encode flg wc) s = .next { s with response := some 0x0000000300000000#64 })

/-- R72: the record a successful `PACK` built is valid: a `CHECK` issued next answers `OK` and reports the flags, the
workchain and the tag it was packed with. -/
def Obligations.CheckAcceptsWhatPackBuilt : Prop :=
  ∀ (s t : State) (flg : Byte) (wc : Word32),
    LegalWc wc → exec (.pack flg wc) s = .next t →
    ∃ u, exec .check t = .next u ∧ u.response = some 0x0000000000000000#64 ∧
      statusValid u.status = true ∧ statusBnc u.status = flg.getLsbD 0 ∧ statusTst u.status = flg.getLsbD 1 ∧
      u.wc = wc ∧ u.tag = tagFor flg ∧ u.crc = t.crc

/-- R73 (a), (b): packing again replaces bytes 0, 1, 34 and 35 only by what the last operands give: the result is that
of the last `PACK` alone. -/
def Obligations.LastPackWins : Prop :=
  ∀ (s t : State) (flg flg' : Byte) (wc wc' : Word32),
    LegalWc wc → exec (.pack flg wc) s = .next t → LegalWc wc' →
    exec (.pack flg' wc') t = exec (.pack flg' wc') s

/-- R51, R52: the tag byte has `T` in bit 7, `not B` in bit 6 and `010001` below, and is read by these two bits alone,
whatever the others are. The first clause is the spec's own inference (R51: "Bit by bit [derived: from the four
values]"); it takes in flags operands that no decoded command has, of which the model ignores bits 7:2
(notes/assumptions/11.md). -/
def Obligations.TagByteComposesAndReads : Prop :=
  (∀ flg : Byte, (composeTag flg).getLsbD 7 = flg.getLsbD 1 ∧ (composeTag flg).getLsbD 6 = !flg.getLsbD 0 ∧
    (composeTag flg).extractLsb' 0 6 = 0b010001#6) ∧
  (∀ tag : Byte, tagIsTestnet tag = tag.getLsbD 7 ∧ tagIsBounceable tag = !tag.getLsbD 6) ∧
  (composeTag 0x01 = 0x11#8 ∧ composeTag 0x00 = 0x51#8 ∧ composeTag 0x03 = 0x91#8 ∧ composeTag 0x02 = 0xD1#8)

/-- R53, R54: composing and interpreting the workchain byte are inverse on -1 and 0 to 254 and on all 256 bytes. -/
def Obligations.WorkchainByteRoundTrip : Prop :=
  (∀ wc : Word32, LegalWc wc → readWorkchain (composeWorkchain wc) = wc) ∧
  (∀ b : Byte, LegalWc (readWorkchain b) ∧ composeWorkchain (readWorkchain b) = b)

/-! ### Base64 (42_base64.md) -/

/-- R56, R57: the encoding table is the 64 characters `A-Z a-z 0-9 - _` in this order; a character has a value exactly
when the encoding table gives it for that value, or it is `+` for 62 or `/` for 63. The third clause is the spec's own inference
(R57: "`b64val(b64chr(v)) = v` for all 64 values [derived: from rule R56 and this rule]"). -/
def Obligations.CharacterTablesAreThoseOfTheSpec : Prop :=
  (List.range 64).map (fun v => Char.ofNat (b64chr (BitVec.ofNat 6 v)).toNat) =
    ['A', 'B', 'C', 'D', 'E', 'F', 'G', 'H', 'I', 'J', 'K', 'L', 'M', 'N', 'O', 'P', 'Q', 'R', 'S', 'T', 'U', 'V', 'W',
      'X', 'Y', 'Z', 'a', 'b', 'c', 'd', 'e', 'f', 'g', 'h', 'i', 'j', 'k', 'l', 'm', 'n', 'o', 'p', 'q', 'r', 's', 't',
      'u', 'v', 'w', 'x', 'y', 'z', '0', '1', '2', '3', '4', '5', '6', '7', '8', '9', '-', '_'] ∧
  (∀ (c : Byte) (v : Sextet), b64val c = some v ↔ b64chr v = c ∨ (c = 0x2B#8 ∧ v = 62#6) ∨ (c = 0x2F#8 ∧ v = 63#6)) ∧
  (∀ v : Sextet, b64val (b64chr v) = some v)

/-- R75: `B64ENC` writes the 48 characters of the record in `BUF` by the grouping, sets `TLEN` to 48 and changes
nothing else. -/
def Obligations.B64encWritesTheText : Prop :=
  Sys2Proof.decode 0x4000000000000000#64 = .ok .b64enc ∧
  ∀ s : State,
    ∃ t, exec .b64enc s = .next t ∧
      GroupsEncoded (s.readByte .record) (t.readByte .text) ∧
      (∀ a, 48 ≤ a → t.readByte .text a = s.readByte .text a) ∧
      t = { s with txt := t.txt, tlen := 48#7, response := some 0x0000000000000000#64 }

/-- R76: the encoder's 48 characters are over the 64 characters `A-Z a-z 0-9 - _`: never `=`, `+` or `/`. -/
def Obligations.EncodedTextIsUrlSafe : Prop :=
  ∀ s t : State, exec .b64enc s = .next t → t.tlen = 48#7 ∧
    ∀ a, a < 48 → ∃ c, t.readByte .text a = some c ∧
      (0x41 ≤ c.toNat ∧ c.toNat ≤ 0x5A ∨ 0x61 ≤ c.toNat ∧ c.toNat ≤ 0x7A ∨ 0x30 ≤ c.toNat ∧ c.toNat ≤ 0x39 ∨
        c.toNat = 0x2D ∨ c.toNat = 0x5F)

/-- R77, R78, R79, R80: `B64DEC` tests the length first, then every character, and only then replaces the 36 bytes of
`BUF` by the grouping; a failure changes nothing, and nothing else changes in any case. -/
def Obligations.B64decReplacesTheRecordOrNothing : Prop :=
  Sys2Proof.decode 0x4100000000000000#64 = .ok .b64dec ∧
  (∀ s : State, s.tlen ≠ 48#7 → exec .b64dec s = .next { s with response := some 0x0000000400000000#64 }) ∧
  (∀ s : State, s.tlen = 48#7 → TextHasInvalid s →
    exec .b64dec s = .next { s with response := some 0x0000000500000000#64 }) ∧
  (∀ s : State, s.tlen = 48#7 → ¬ TextHasInvalid s →
    ∃ t, exec .b64dec s = .next t ∧
      GroupsDecoded (s.readByte .text) (t.readByte .record) ∧
      t = { s with buf := t.buf, response := some 0x0000000000000000#64 })

/-- R81 (a): for every content of `BUF`, `B64ENC` then `B64DEC` succeeds and leaves `BUF` as it was. -/
def Obligations.EncodeThenDecodeKeepsTheRecord : Prop :=
  ∀ s : State,
    ∃ t, execAll [.b64enc, .b64dec] s = .next t ∧ t.response = some 0x0000000000000000#64 ∧ t.buf = s.buf

/-- R81 (b), (c): a text of 48 valid characters decoded and encoded again is the same text with every `+` replaced by
`-` and every `/` by `_`. -/
def Obligations.DecodeThenEncodeNormalisesTheText : Prop :=
  ∀ s : State, s.tlen = 48#7 → ¬ TextHasInvalid s →
    ∃ t, execAll [.b64dec, .b64enc] s = .next t ∧
      ∀ a c, s.readByte .text a = some c →
        t.readByte .text a = some (if a < 48 ∧ c = 0x2B#8 then 0x2D#8 else if a < 48 ∧ c = 0x2F#8 then 0x5F#8 else c)

/-- R81 (d): two different contents of `BUF` never share a text. -/
def Obligations.EncodingIsInjective : Prop :=
  ∀ s s' t t' : State, exec .b64enc s = .next t → exec .b64enc s' = .next t' →
    (∀ a, a < 48 → t.readByte .text a = t'.readByte .text a) → s.buf = s'.buf

/-! ### Validation (43_check.md) -/

/-- R85: `CHECK` leaves the recomputed checksum in `CRC`, publishes the fields of a record whose checksum matches and
answers `OK`, or clears the result registers and answers `E_CHECKSUM`; nothing else changes. -/
def Obligations.CheckPublishesOrClears : Prop :=
  Sys2Proof.decode 0x3100000000000000#64 = .ok .check ∧
  ∀ (s : State) (bytes : List Byte), bytes.length = 36 → s.holds .record 0 bytes →
    exec .check s = .next (checkedState s bytes)

/-- R88: from a valid record, one bit changed anywhere in `BUF` makes `CHECK` fail. The spec marks this as its own
inference from R85 and R69 ("Sensitivity [derived: ..."). -/
def Obligations.OneFlippedBitFailsTheCheck : Prop :=
  ∀ (s t : State) (idx v : Byte) (k : Nat), exec .check s = .next t →
    t.response = some 0x0000000000000000#64 → s.readByte .record idx.toNat = some v → k < 8 →
    ∃ u, execAll [.wrb idx (v ^^^ BitVec.twoPow 8 k), .check] s = .next u ∧
      u.response = some 0x0000000600000000#64

/-! ### Composite commands (44_codec.md) -/

/-- R90: `ENCODE` with a legal workchain leaves the record of `PACK` in `BUF`, its checksum in `CRC`, its text in the
first 48 characters of `TXT` and 48 in `TLEN`, and changes nothing else. -/
def Obligations.EncodeBuildsTheRecordAndItsText : Prop :=
  (∀ (flg : Byte) (wc : Word32), flg &&& 0xFC#8 = 0#8 →
    Sys2Proof.decode (c64 0x50#8 flg 0#8 0#8 wc) = .ok (.encode flg wc)) ∧
  (∀ (s : State) (flg : Byte) (wc : Word32) (account : List Byte),
    LegalWc wc → account.length = 32 → s.holds .record 2 account →
    ∃ t, exec (.encode flg wc) s = .next t ∧
      t.holds .record 0 (packedRecord flg wc account) ∧
      (∀ a, 36 ≤ a → t.readByte .record a = s.readByte .record a) ∧
      GroupsEncoded (t.readByte .record) (t.readByte .text) ∧
      (∀ a, 48 ≤ a → t.readByte .text a = s.readByte .text a) ∧
      t = { s with buf := t.buf, txt := t.txt, tlen := 48#7, crc := crc16 (packedPrefix flg wc account),
                   response := some 0x0000000000000000#64 }) ∧
  (∀ (s : State) (flg : Byte) (wc : Word32), ¬ LegalWc wc →
    exec (.encode flg wc) s = .next { s with response := some 0x0000000300000000#64 })

/-- R91: `DECODE` tests the length, then the characters, clearing the result registers and nothing else where a test
fails; otherwise it replaces `BUF` by the decoded bytes and makes of them what `CHECK` makes. -/
def Obligations.DecodeReadsTheTextThenChecks : Prop :=
  Sys2Proof.decode 0x5100000000000000#64 = .ok .decode ∧
  (∀ s : State, s.tlen ≠ 48#7 →
    exec .decode s = .next { s with status := 0x00#8, tag := 0x00#8, wc := 0x00000000#32,
                                    response := some 0x0000000400000000#64 }) ∧
  (∀ s : State, s.tlen = 48#7 → TextHasInvalid s →
    exec .decode s = .next { s with status := 0x00#8, tag := 0x00#8, wc := 0x00000000#32,
                                    response := some 0x0000000500000000#64 }) ∧
  (∀ s : State, s.tlen = 48#7 → ¬ TextHasInvalid s →
    ∃ t bytes, exec .decode s = .next t ∧ bytes.length = 36 ∧ t.holds .record 0 bytes ∧
      GroupsDecoded (s.readByte .text) (t.readByte .record) ∧
      t = checkedState { s with buf := t.buf } bytes)

/-- R92: `ENCODE` is `PACK` and then, if that did not fail, `B64ENC`; `DECODE` is `B64DEC` and then `CHECK`, except that
a failing base64 stage also clears the result registers. The spec marks this as its own inference from R90 and R91. -/
def Obligations.CompositesAreTheirParts : Prop :=
  (∀ (s : State) (flg : Byte) (wc : Word32), LegalWc wc →
    exec (.encode flg wc) s = execAll [.pack flg wc, .b64enc] s) ∧
  (∀ (s : State) (flg : Byte) (wc : Word32), ¬ LegalWc wc → exec (.encode flg wc) s = exec (.pack flg wc) s) ∧
  (∀ s t : State, exec .b64dec s = .next t → t.response = some 0x0000000000000000#64 →
    exec .decode s = exec .check t) ∧
  (∀ s t : State, exec .b64dec s = .next t → t.response ≠ some 0x0000000000000000#64 →
    exec .decode s = .next { t with status := 0x00#8, tag := 0x00#8, wc := 0x00000000#32 })

/-- R94: `ENCODE` followed by `DECODE`, with any commands between them that write neither `TXT` nor `TLEN`, answers
`OK` and gives back the flags, the workchain, the tag byte and the account identifier, for every account, legal
workchain and flags value. The spec marks this as its own inference from R72, R81 and R85 ("Round trip through the
block [derived: ..."). -/
def Obligations.DecodeGivesBackWhatEncodeTook : Prop :=
  ∀ (s : State) (flg : Byte) (wc : Word32) (between : List Instr), LegalWc wc →
    (∀ i ∈ between, LeavesText i) →
    ∃ t, execAll ([.encode flg wc] ++ between ++ [.decode]) s = .next t ∧ t.response = some 0x0000000000000000#64 ∧
      statusValid t.status = true ∧ statusBnc t.status = flg.getLsbD 0 ∧ statusTst t.status = flg.getLsbD 1 ∧
      t.wc = wc ∧ t.tag = tagFor flg ∧
      ∀ a, 2 ≤ a → a < 34 → t.readByte .record a = s.readByte .record a

/-! ### All commands -/

/-- R6, R10: every command answers a next state, from every state. On all 2^64 words the seven elements written and the
response are `ArchState.transaction` of the word and of the seven elements alone, and nothing else of the state
changes. What stands beside the seven elements is the model's choice (notes/assumptions/2.md). -/
def Obligations.EveryCommandAnswers : Prop :=
  (∀ (i : Instr) (s : State), ∃ t, exec i s = .next t) ∧
  (∀ (w : CommandWord) (s : State),
    runWord w s = .next { s with toArchState := (s.toArchState.transaction w).1,
                                 response := some (s.toArchState.transaction w).2 })

/-- R45, R46, R120: every command answers exactly one response word, of the spec's form; only the three read commands
return data. The host's list and the responses it took are left alone. -/
def Obligations.EveryResponseHasItsForm : Prop :=
  ∀ (i : Instr) (s t : State), exec i s = .next t →
    ∃ r, t.response = some r ∧ LegalResponse r ∧
      ((∀ reg, i ≠ .rdr reg) → (∀ idx, i ≠ .rdb idx) → (∀ idx, i ≠ .rdt idx) → responseData r = 0#32) ∧
      t.inputs = s.inputs ∧ t.taken = s.taken ∧ t.resetLine = s.resetLine ∧ t.draws = s.draws

/-- R122: a command that fails answers one of the codes the spec lists for it; the five that cannot fail answer `OK`.
The spec marks the list as its own inference from the command rules. -/
def Obligations.FailureCodesAreThoseOfTheCommand : Prop :=
  ∀ (i : Instr) (s t : State) (r : ResponseWord), exec i s = .next t → t.response = some r →
    responseErr r = 0x00#8 ∨ responseErr r ∈ failureCodes i

/-- R123: the first failure in the fixed order is the one reported: an illegal word before its operands, the text
length before the characters, the characters before the checksum. -/
def Obligations.FailuresAreReportedInOrder : Prop :=
  (∀ (s : State) (w : CommandWord), (¬ ∃ i, Sys2Proof.decode w = .ok i) →
    runWord w s = .next { s with response := some 0x0000000100000000#64 }) ∧
  (∀ (s : State) (flg : Byte) (wc : Word32), flg &&& 0xFC#8 ≠ 0#8 →
    runWord (c64 0x30#8 flg 0#8 0#8 wc) s = .next { s with response := some 0x0000000100000000#64 } ∧
    runWord (c64 0x50#8 flg 0#8 0#8 wc) s = .next { s with response := some 0x0000000100000000#64 }) ∧
  (∀ (s : State) (i : Instr), i = .b64dec ∨ i = .decode → s.tlen ≠ 48#7 →
    ∃ t, exec i s = .next t ∧ t.response = some 0x0000000400000000#64) ∧
  (∀ (s : State) (i : Instr), i = .b64dec ∨ i = .decode → s.tlen = 48#7 → TextHasInvalid s →
    ∃ t, exec i s = .next t ∧ t.response = some 0x0000000500000000#64)

/-- R124: the state after a failing command, complete. -/
def Obligations.FailingCommandsLeaveExactlyThis : Prop :=
  (∀ (w : CommandWord) (s : State) (e : Illegal), Sys2Proof.decode w = .error e →
    runWord w s = .next { s with response := some 0x0000000100000000#64 }) ∧
  (∀ (i : Instr) (s t : State), exec i s = .next t →
    t.response = some 0x0000000200000000#64 ∨ t.response = some 0x0000000300000000#64 ∨
      (i = .b64dec ∧ t.response ≠ some 0x0000000000000000#64) →
    t = { s with response := t.response }) ∧
  (∀ s t : State, exec .decode s = .next t →
    t.response = some 0x0000000400000000#64 ∨ t.response = some 0x0000000500000000#64 →
    t = { s with status := 0x00#8, tag := 0x00#8, wc := 0x00000000#32, response := t.response }) ∧
  (∀ s t : State, exec .check s = .next t → t.response = some 0x0000000600000000#64 →
    ∃ covered, covered.length = 34 ∧ s.holds .record 0 covered ∧
      t = { s with crc := crc16 covered, status := 0x00#8, tag := 0x00#8, wc := 0x00000000#32,
                   response := t.response }) ∧
  (∀ s t : State, exec .decode s = .next t → t.response = some 0x0000000600000000#64 →
    ∃ u covered, exec .b64dec s = .next u ∧ covered.length = 34 ∧ u.holds .record 0 covered ∧
      t = { s with buf := u.buf, crc := crc16 covered, status := 0x00#8, tag := 0x00#8, wc := 0x00000000#32,
                   response := t.response })

/-- R127: nothing is latched: a command does the same whatever the response before it was, and a command that failed,
issued again at once, fails in the same way and changes nothing more. -/
def Obligations.NoFailureIsRemembered : Prop :=
  (∀ (i : Instr) (s : State) (r : Option ResponseWord), exec i { s with response := r } = exec i s) ∧
  (∀ (i : Instr) (s t : State) (r : ResponseWord), exec i s = .next t → t.response = some r →
    responseErr r ≠ 0x00#8 → exec i t = .next t)

/-- R13 to R19, R139: each state element is written only by the commands its rule names. -/
def Obligations.ElementsAreWrittenOnlyByTheNamedCommands : Prop :=
  ∀ (i : Instr) (s t : State), exec i s = .next t →
    ((∀ x v, i ≠ .wrb x v) → (∀ f w, i ≠ .pack f w) → (∀ f w, i ≠ .encode f w) → i ≠ .b64dec → i ≠ .decode →
      t.buf = s.buf) ∧
    ((∀ x v, i ≠ .wrt x v) → (∀ f w, i ≠ .encode f w) → i ≠ .b64enc → t.txt = s.txt) ∧
    ((∀ n, i ≠ .setlen n) → (∀ f w, i ≠ .encode f w) → i ≠ .b64enc → t.tlen = s.tlen) ∧
    (i ≠ .crcclr → (∀ v, i ≠ .crcput v) → i ≠ .crcfin → (∀ f w, i ≠ .pack f w) → i ≠ .check →
      (∀ f w, i ≠ .encode f w) → i ≠ .decode → t.crc = s.crc) ∧
    (i ≠ .check → i ≠ .decode → t.status = s.status ∧ t.tag = s.tag ∧ t.wc = s.wc)

/-- R23: the response and the state a command writes are a function of the command and of the inputs the spec lists
for it alone. -/
def Obligations.CommandsReadOnlyTheirInputs : Prop :=
  ∀ (i : Instr) (s₁ s₂ t₁ t₂ : State), SameInputs i s₁ s₂ →
    exec i s₁ = .next t₁ → exec i s₂ = .next t₂ → SameOutputs s₁ t₁ s₂ t₂

/-! ### The invariant -/

/-- R15, R17, R18, R19, R25, R45: the invariant holds at reset, whatever the buffers hold. -/
def Obligations.InvariantHoldsAtReset : Prop :=
  ∀ b x : Nat → Byte, Inv (State.init b x)

/-- R15, R17, R18, R19, R25, R45: every step keeps the invariant. -/
def Obligations.EveryStepKeepsTheInvariant : Prop :=
  ∀ s t : State, Inv s → step s = .next t → Inv t

/-- R6, R127: with a host that respects the handshake, no step stops the block. The list in which the host's actions
stand is the model's choice (notes/assumptions/2.md). -/
def Obligations.NoStepStopsTheBlock : Prop :=
  ∀ s : State, Inv s → HostReady s → StepsOn s

/-! ### The host procedures (48_host_software.md) -/

/-- R106, R107, R108: the canonical text of a raw address with a legal workchain is parsed back to that address. -/
def Obligations.RawTextRoundTrip : Prop :=
  ∀ r : RawAddress, r.account.length = 32 → legalWorkchain r.workchain = true → parseRaw r.text = some r

/-- R109 to R115, R117: the document's round trip. `encodeFriendly` of a raw address succeeds, and `parseAddress` of the
text it returned gives back the raw address, the workchain and the flags. `parseAddress` of the raw text itself takes
the raw path and gives back the same, with the caller's testnet flag and the two texts that `encodeFriendly` returns.
How the host procedures drive the block is the model's choice (notes/assumptions/12.md). -/
def Obligations.ParseGivesBackWhatEncodeFriendlyTook : Prop :=
  (∀ (r : RawAddress) (bounceable testnet flag : Bool) (s : State),
    r.account.length = 32 → legalWorkchain r.workchain = true →
    Inv s → s.resetLine = false → s.response = none →
    ∃ text u p v, encodeFriendly r.text bounceable testnet s = some (.ok text, u) ∧
      parseAddress text flag u = some (.ok p, v) ∧
      p.raw = r.text ∧ p.workchain = r.workchain ∧ p.testnet = testnet ∧
      p.inputType = label r.workchain false bounceable ∧
      (if bounceable then p.bounceable else p.unbounceable) = text) ∧
  (∀ (r : RawAddress) (flag : Bool) (s : State),
    r.account.length = 32 → legalWorkchain r.workchain = true →
    Inv s → s.resetLine = false → s.response = none →
    ∃ p v u u', parseAddress r.text flag s = some (.ok p, v) ∧
      p.raw = r.text ∧ p.workchain = r.workchain ∧ p.testnet = flag ∧
      p.inputType = label r.workchain true true ∧
      encodeFriendly r.text true flag s = some (.ok p.bounceable, u) ∧
      encodeFriendly r.text false flag s = some (.ok p.unbounceable, u'))

/-- R110 to R113, R116, R117: when `parseAddress` fails, and in which of its two variants. A text longer than 64 is
parsed or is malformed raw input, with the block untouched; a shorter one is malformed where `DECODE` cannot read its
characters, and otherwise its checksum decides. Which loosely spelled workchains a raw text may have is open
(notes/assumptions/9.md), and how the procedures drive the block is the model's choice (notes/assumptions/12.md). -/
def Obligations.ParseAddressFailsOnlyAsTheSpecSays : Prop :=
  (∀ (text : List Char) (flag : Bool) (s : State), 64 < text.length → parseRaw text = none →
    encodeFriendly text true flag s = some (.error .malformedRaw, s) ∧
    parseAddress text flag s = some (.error .malformedInput, s)) ∧
  (∀ (text : List Char) (r : RawAddress) (flag : Bool) (s : State), 64 < text.length → parseRaw text = some r →
    Inv s → s.resetLine = false → s.response = none →
    ∃ p t, parseAddress text flag s = some (.ok p, t)) ∧
  (∀ (text : List Char) (flag : Bool) (s : State), text.length ≤ 64 → MalformedFriendly text →
    Inv s → s.resetLine = false → s.response = none →
    ∃ t, parseAddress text flag s = some (.error .malformedInput, t)) ∧
  (∀ (text : List Char) (bytes : List Byte) (flag : Bool) (s : State), ¬ MalformedFriendly text → bytes.length = 36 →
    GroupsDecoded (fun a => text[a]?.map fun c => BitVec.ofNat 8 c.toNat) (fun a => bytes[a]?) →
    Inv s → s.resetLine = false → s.response = none →
    ∃ result t, parseAddress text flag s = some (result, t) ∧
      if bytes.getD 34 0 = (crc16 (bytes.take 34)).extractLsb' 8 8 ∧
          bytes.getD 35 0 = (crc16 (bytes.take 34)).extractLsb' 0 8
      then ∃ p, result = .ok p
      else result = .error .checksumMismatch)
end

