-- ==== Sys2Proof/Laws/Base64.lean ====
section
/-! SUPPORT. What the two halves of the base64 grouping hold, group by group, their lengths, and when a text has
values (spec/30_encoding.md R58, spec/42_base64.md R75, R79). -/

namespace Sys2Proof.Machine

/-! ### Lengths -/

theorem sextets_length (n : Nat) (bs : List Byte) (h : bs.length = 3 * n) : (sextets bs).length = 4 * n := by
  induction n generalizing bs with
  | zero =>
    have : bs = [] := List.length_eq_zero_iff.mp (by omega)
    subst this; rfl
  | succ n ih =>
    match bs, h with
    | x :: y :: z :: rest, h =>
      have := ih rest (by simp at h; omega)
      simp only [sextets, List.length_cons]
      omega

theorem groupBytes_length (n : Nat) (vs : List Sextet) (h : vs.length = 4 * n) : (groupBytes vs).length = 3 * n := by
  induction n generalizing vs with
  | zero =>
    have : vs = [] := List.length_eq_zero_iff.mp (by omega)
    subst this; rfl
  | succ n ih =>
    match vs, h with
    | x :: y :: z :: w :: rest, h =>
      have := ih rest (by simp at h; omega)
      simp only [groupBytes, List.length_cons]
      omega

/-- The text of a record has 48 characters. -/
theorem b64Encode_length (bs : List Byte) (h : bs.length = 36) : (b64Encode bs).length = 48 := by
  simp [b64Encode, sextets_length 12 bs h]

/-! ### Groups -/

/-- Group `g` of the values of a byte sequence. -/
theorem sextets_group (bs : List Byte) (g : Nat) (x y z : Byte) (hx : bs[3 * g]? = some x)
    (hy : bs[3 * g + 1]? = some y) (hz : bs[3 * g + 2]? = some z) :
    (sextets bs)[4 * g]? = some (x.extractLsb' 2 6) ∧
    (sextets bs)[4 * g + 1]? = some (x.extractLsb' 0 2 ++ y.extractLsb' 4 4) ∧
    (sextets bs)[4 * g + 2]? = some (y.extractLsb' 0 4 ++ z.extractLsb' 6 2) ∧
    (sextets bs)[4 * g + 3]? = some (z.extractLsb' 0 6) := by
  induction bs using sextets.induct generalizing g with
  | case1 a b c rest ih =>
    cases g with
    | zero =>
      simp at hx hy hz
      subst hx hy hz
      exact ⟨rfl, rfl, rfl, rfl⟩
    | succ g =>
      rw [show 3 * (g + 1) = 3 * g + 3 by omega] at hx
      rw [show 3 * (g + 1) + 1 = 3 * g + 1 + 3 by omega] at hy
      rw [show 3 * (g + 1) + 2 = 3 * g + 2 + 3 by omega] at hz
      simp only [List.getElem?_cons_succ] at hx hy hz
      rw [show 4 * (g + 1) = 4 * g + 4 by omega, show 4 * g + 4 + 1 = 4 * g + 1 + 4 by omega,
        show 4 * g + 4 + 2 = 4 * g + 2 + 4 by omega, show 4 * g + 4 + 3 = 4 * g + 3 + 4 by omega]
      simp only [sextets, List.getElem?_cons_succ]
      exact ih g hx hy hz
  | case2 bs hn =>
    have := (List.getElem?_eq_some_iff.mp hz).1
    match bs, hn with
    | [], _ => simp at this
    | [_], _ => simp at this
    | [_, _], _ => simp at this
    | a :: b :: c :: r, hn => exact absurd rfl (hn a b c r)

/-- Group `g` of the bytes of a sequence of values. -/
theorem groupBytes_group (vs : List Sextet) (g : Nat) (v0 v1 v2 v3 : Sextet) (h0 : vs[4 * g]? = some v0)
    (h1 : vs[4 * g + 1]? = some v1) (h2 : vs[4 * g + 2]? = some v2) (h3 : vs[4 * g + 3]? = some v3) :
    (groupBytes vs)[3 * g]? = some (v0 ++ v1.extractLsb' 4 2) ∧
    (groupBytes vs)[3 * g + 1]? = some (v1.extractLsb' 0 4 ++ v2.extractLsb' 2 4) ∧
    (groupBytes vs)[3 * g + 2]? = some (v2.extractLsb' 0 2 ++ v3) := by
  induction vs using groupBytes.induct generalizing g with
  | case1 a b c d rest ih =>
    cases g with
    | zero =>
      simp at h0 h1 h2 h3
      subst h0 h1 h2 h3
      exact ⟨rfl, rfl, rfl⟩
    | succ g =>
      rw [show 4 * (g + 1) = 4 * g + 4 by omega] at h0
      rw [show 4 * (g + 1) + 1 = 4 * g + 1 + 4 by omega] at h1
      rw [show 4 * (g + 1) + 2 = 4 * g + 2 + 4 by omega] at h2
      rw [show 4 * (g + 1) + 3 = 4 * g + 3 + 4 by omega] at h3
      simp only [List.getElem?_cons_succ] at h0 h1 h2 h3
      rw [show 3 * (g + 1) = 3 * g + 3 by omega, show 3 * g + 3 + 1 = 3 * g + 1 + 3 by omega,
        show 3 * g + 3 + 2 = 3 * g + 2 + 3 by omega]
      simp only [groupBytes, List.getElem?_cons_succ]
      exact ih g h0 h1 h2 h3
  | case2 vs hn =>
    have := (List.getElem?_eq_some_iff.mp h3).1
    match vs, hn with
    | [], _ => simp at this
    | [_], _ => simp at this
    | [_, _], _ => simp at this
    | [_, _, _], _ => simp at this
    | a :: b :: c :: d :: r, hn => exact absurd rfl (hn a b c d r)

/-! ### Values of a text -/

/-- A text has no values exactly when one of its characters is invalid. -/
theorem textValues_eq_none_iff (text : List Byte) :
    textValues text = none ↔ ∃ (i : Nat) (c : Byte), text[i]? = some c ∧ b64val c = none := by
  induction text with
  | nil => simp [textValues]
  | cons c rest ih =>
    cases hc : b64val c with
    | none => exact ⟨fun _ => ⟨0, c, rfl, hc⟩, fun _ => by simp only [textValues, hc]⟩
    | some v =>
      have : textValues (c :: rest) = none ↔ textValues rest = none := by
        simp only [textValues, hc]
        cases textValues rest <;> simp
      rw [this, ih]
      constructor
      · rintro ⟨i, d, h1, h2⟩
        exact ⟨i + 1, d, by simpa using h1, h2⟩
      · rintro ⟨i, d, h1, h2⟩
        cases i with
        | zero =>
          simp at h1
          subst h1
          rw [hc] at h2
          cases h2
        | succ i => exact ⟨i, d, by simpa using h1, h2⟩

/-- The values of a text are those of its characters. -/
theorem textValues_eq_some {text : List Byte} {vs : List Sextet} (h : textValues text = some vs) :
    vs.length = text.length ∧ ∀ (i : Nat) (c : Byte), text[i]? = some c → b64val c = vs[i]? := by
  induction text generalizing vs with
  | nil =>
    simp [textValues] at h
    subst h
    simp
  | cons c rest ih =>
    cases hc : b64val c with
    | none => simp [textValues, hc] at h
    | some v =>
      cases hr : textValues rest with
      | none => simp [textValues, hr] at h
      | some ws =>
        simp [textValues, hc, hr] at h
        subst h
        obtain ⟨h1, h2⟩ := ih hr
        refine ⟨by simp [h1], fun i d hd => ?_⟩
        cases i with
        | zero =>
          simp at hd
          subst hd
          simpa using hc
        | succ i =>
          simp at hd
          simpa using h2 i d hd

end Sys2Proof.Machine
end

