-- ==== Sys2Proof/Laws/Decode.lean ====
section
/-! SUPPORT. The fields of a command word: what the word of given fields holds, and a word as the word of its fields
(spec/30_encoding.md R40). -/

namespace Sys2Proof

/-- The bits of a command word, field by field (30_encoding.md R40). -/
theorem getLsbD_c64 (op a b z : Byte) (imm : Word32) (i : Nat) :
    (c64 op a b z imm).getLsbD i =
      if i < 32 then imm.getLsbD i else if i < 40 then z.getLsbD (i - 32)
      else if i < 48 then b.getLsbD (i - 40) else if i < 56 then a.getLsbD (i - 48)
      else op.getLsbD (i - 56) := by
  have h : (c64 op a b z imm).getLsbD i = @BitVec.getLsbD (8 + 8 + 8 + 8 + 32) (op ++ a ++ b ++ z ++ imm) i := rfl
  rw [h]
  simp only [BitVec.getLsbD_append]
  repeat' split
  all_goals first | omega | rfl


@[simp] theorem fieldOp_c64 (op a b z : Byte) (imm : Word32) : fieldOp (c64 op a b z imm) = op := by
  apply BitVec.eq_of_getLsbD_eq
  intro i hi
  simp [fieldOp, getLsbD_c64, hi, show ¬ (56 + i < 32) by omega, show ¬ (56 + i < 40) by omega, show ¬ (56 + i < 48) by omega]

@[simp] theorem fieldA_c64 (op a b z : Byte) (imm : Word32) : fieldA (c64 op a b z imm) = a := by
  apply BitVec.eq_of_getLsbD_eq
  intro i hi
  simp [fieldA, getLsbD_c64, hi, show ¬ (48 + i < 32) by omega, show ¬ (48 + i < 40) by omega, show (48 + i < 56) by omega]

@[simp] theorem fieldB_c64 (op a b z : Byte) (imm : Word32) : fieldB (c64 op a b z imm) = b := by
  apply BitVec.eq_of_getLsbD_eq
  intro i hi
  simp [fieldB, getLsbD_c64, hi, show ¬ (40 + i < 32) by omega, show (40 + i < 48) by omega]

@[simp] theorem fieldZ_c64 (op a b z : Byte) (imm : Word32) : fieldZ (c64 op a b z imm) = z := by
  apply BitVec.eq_of_getLsbD_eq
  intro i hi
  simp [fieldZ, getLsbD_c64, hi, show (32 + i < 40) by omega]

@[simp] theorem fieldImm_c64 (op a b z : Byte) (imm : Word32) : fieldImm (c64 op a b z imm) = imm := by
  apply BitVec.eq_of_getLsbD_eq
  intro i hi
  simp [fieldImm, getLsbD_c64, hi]

/-- A word is made of its fields. -/
theorem c64_fields (w : CommandWord) : c64 (fieldOp w) (fieldA w) (fieldB w) (fieldZ w) (fieldImm w) = w := by
  apply BitVec.eq_of_getLsbD_eq
  intro i hi
  simp only [getLsbD_c64, fieldOp, fieldA, fieldB, fieldZ, fieldImm, BitVec.getLsbD_extractLsb']
  repeat' split
  · simp_all
  · simp [show i - 32 < 8 by omega, show 32 + (i - 32) = i by omega]
  · simp [show i - 40 < 8 by omega, show 40 + (i - 40) = i by omega]
  · simp [show i - 48 < 8 by omega, show 48 + (i - 48) = i by omega]
  · simp [show i - 56 < 8 by omega, show 56 + (i - 56) = i by omega]


/-- AND of two words goes field by field. -/
theorem c64_and (op a b z : Byte) (imm : Word32) (op' a' b' z' : Byte) (imm' : Word32) :
   c64 op a b z imm &&& c64 op' a' b' z' imm' = c64 (op &&& op') (a &&& a') (b &&& b') (z &&& z') (imm &&& imm') := by
  apply BitVec.eq_of_getLsbD_eq
  intro i hi
  simp only [BitVec.getLsbD_and, getLsbD_c64]
  repeat' split
  all_goals rfl

/-- Two words are equal when their fields are. -/
theorem c64_inj {op a b z : Byte} {imm : Word32} {op' a' b' z' : Byte} {imm' : Word32} :
   c64 op a b z imm = c64 op' a' b' z' imm' ↔ op = op' ∧ a = a' ∧ b = b' ∧ z = z' ∧ imm = imm' := by
  constructor
  · intro h
    exact ⟨by simpa [fieldOp_c64] using congrArg fieldOp h, by simpa [fieldA_c64] using congrArg fieldA h, by simpa [fieldB_c64] using congrArg fieldB h, by simpa [fieldZ_c64] using congrArg fieldZ h, by simpa [fieldImm_c64] using congrArg fieldImm h⟩
  · rintro ⟨rfl,rfl,rfl,rfl,rfl⟩; rfl

end Sys2Proof
end

