-- ==== Sys2Proof/Laws/State.lean ====
section
/-! SUPPORT. One lemma per field per named update of the state, each true by definition, so that no proof unfolds a
record update. -/

namespace Sys2Proof.Machine

/-! ### setBuf -/

@[simp] theorem State.setBuf_buf (s : State) (m : Buffer 36) : (s.setBuf m).buf = m := rfl
@[simp] theorem State.setBuf_txt (s : State) (m : Buffer 36) : (s.setBuf m).txt = s.txt := rfl
@[simp] theorem State.setBuf_tlen (s : State) (m : Buffer 36) : (s.setBuf m).tlen = s.tlen := rfl
@[simp] theorem State.setBuf_crc (s : State) (m : Buffer 36) : (s.setBuf m).crc = s.crc := rfl
@[simp] theorem State.setBuf_status (s : State) (m : Buffer 36) : (s.setBuf m).status = s.status := rfl
@[simp] theorem State.setBuf_tag (s : State) (m : Buffer 36) : (s.setBuf m).tag = s.tag := rfl
@[simp] theorem State.setBuf_wc (s : State) (m : Buffer 36) : (s.setBuf m).wc = s.wc := rfl
@[simp] theorem State.setBuf_response (s : State) (m : Buffer 36) : (s.setBuf m).response = s.response := rfl
@[simp] theorem State.setBuf_resetLine (s : State) (m : Buffer 36) : (s.setBuf m).resetLine = s.resetLine := rfl
@[simp] theorem State.setBuf_inputs (s : State) (m : Buffer 36) : (s.setBuf m).inputs = s.inputs := rfl
@[simp] theorem State.setBuf_taken (s : State) (m : Buffer 36) : (s.setBuf m).taken = s.taken := rfl
@[simp] theorem State.setBuf_draws (s : State) (m : Buffer 36) : (s.setBuf m).draws = s.draws := rfl

/-! ### setTxt -/

@[simp] theorem State.setTxt_buf (s : State) (m : Buffer 64) : (s.setTxt m).buf = s.buf := rfl
@[simp] theorem State.setTxt_txt (s : State) (m : Buffer 64) : (s.setTxt m).txt = m := rfl
@[simp] theorem State.setTxt_tlen (s : State) (m : Buffer 64) : (s.setTxt m).tlen = s.tlen := rfl
@[simp] theorem State.setTxt_crc (s : State) (m : Buffer 64) : (s.setTxt m).crc = s.crc := rfl
@[simp] theorem State.setTxt_status (s : State) (m : Buffer 64) : (s.setTxt m).status = s.status := rfl
@[simp] theorem State.setTxt_tag (s : State) (m : Buffer 64) : (s.setTxt m).tag = s.tag := rfl
@[simp] theorem State.setTxt_wc (s : State) (m : Buffer 64) : (s.setTxt m).wc = s.wc := rfl
@[simp] theorem State.setTxt_response (s : State) (m : Buffer 64) : (s.setTxt m).response = s.response := rfl
@[simp] theorem State.setTxt_resetLine (s : State) (m : Buffer 64) : (s.setTxt m).resetLine = s.resetLine := rfl
@[simp] theorem State.setTxt_inputs (s : State) (m : Buffer 64) : (s.setTxt m).inputs = s.inputs := rfl
@[simp] theorem State.setTxt_taken (s : State) (m : Buffer 64) : (s.setTxt m).taken = s.taken := rfl
@[simp] theorem State.setTxt_draws (s : State) (m : Buffer 64) : (s.setTxt m).draws = s.draws := rfl

/-! ### setTlen -/

@[simp] theorem State.setTlen_buf (s : State) (v : BitVec 7) : (s.setTlen v).buf = s.buf := rfl
@[simp] theorem State.setTlen_txt (s : State) (v : BitVec 7) : (s.setTlen v).txt = s.txt := rfl
@[simp] theorem State.setTlen_tlen (s : State) (v : BitVec 7) : (s.setTlen v).tlen = v := rfl
@[simp] theorem State.setTlen_crc (s : State) (v : BitVec 7) : (s.setTlen v).crc = s.crc := rfl
@[simp] theorem State.setTlen_status (s : State) (v : BitVec 7) : (s.setTlen v).status = s.status := rfl
@[simp] theorem State.setTlen_tag (s : State) (v : BitVec 7) : (s.setTlen v).tag = s.tag := rfl
@[simp] theorem State.setTlen_wc (s : State) (v : BitVec 7) : (s.setTlen v).wc = s.wc := rfl
@[simp] theorem State.setTlen_response (s : State) (v : BitVec 7) : (s.setTlen v).response = s.response := rfl
@[simp] theorem State.setTlen_resetLine (s : State) (v : BitVec 7) : (s.setTlen v).resetLine = s.resetLine := rfl
@[simp] theorem State.setTlen_inputs (s : State) (v : BitVec 7) : (s.setTlen v).inputs = s.inputs := rfl
@[simp] theorem State.setTlen_taken (s : State) (v : BitVec 7) : (s.setTlen v).taken = s.taken := rfl
@[simp] theorem State.setTlen_draws (s : State) (v : BitVec 7) : (s.setTlen v).draws = s.draws := rfl

/-! ### setCrc -/

@[simp] theorem State.setCrc_buf (s : State) (v : Sum) : (s.setCrc v).buf = s.buf := rfl
@[simp] theorem State.setCrc_txt (s : State) (v : Sum) : (s.setCrc v).txt = s.txt := rfl
@[simp] theorem State.setCrc_tlen (s : State) (v : Sum) : (s.setCrc v).tlen = s.tlen := rfl
@[simp] theorem State.setCrc_crc (s : State) (v : Sum) : (s.setCrc v).crc = v := rfl
@[simp] theorem State.setCrc_status (s : State) (v : Sum) : (s.setCrc v).status = s.status := rfl
@[simp] theorem State.setCrc_tag (s : State) (v : Sum) : (s.setCrc v).tag = s.tag := rfl
@[simp] theorem State.setCrc_wc (s : State) (v : Sum) : (s.setCrc v).wc = s.wc := rfl
@[simp] theorem State.setCrc_response (s : State) (v : Sum) : (s.setCrc v).response = s.response := rfl
@[simp] theorem State.setCrc_resetLine (s : State) (v : Sum) : (s.setCrc v).resetLine = s.resetLine := rfl
@[simp] theorem State.setCrc_inputs (s : State) (v : Sum) : (s.setCrc v).inputs = s.inputs := rfl
@[simp] theorem State.setCrc_taken (s : State) (v : Sum) : (s.setCrc v).taken = s.taken := rfl
@[simp] theorem State.setCrc_draws (s : State) (v : Sum) : (s.setCrc v).draws = s.draws := rfl

/-! ### setResult -/

@[simp] theorem State.setResult_buf (s : State) (st tg : Byte) (w : Word32) : (s.setResult st tg w).buf = s.buf := rfl
@[simp] theorem State.setResult_txt (s : State) (st tg : Byte) (w : Word32) : (s.setResult st tg w).txt = s.txt := rfl
@[simp] theorem State.setResult_tlen (s : State) (st tg : Byte) (w : Word32) : (s.setResult st tg w).tlen = s.tlen := rfl
@[simp] theorem State.setResult_crc (s : State) (st tg : Byte) (w : Word32) : (s.setResult st tg w).crc = s.crc := rfl
@[simp] theorem State.setResult_status (s : State) (st tg : Byte) (w : Word32) : (s.setResult st tg w).status = st := rfl
@[simp] theorem State.setResult_tag (s : State) (st tg : Byte) (w : Word32) : (s.setResult st tg w).tag = tg := rfl
@[simp] theorem State.setResult_wc (s : State) (st tg : Byte) (w : Word32) : (s.setResult st tg w).wc = w := rfl
@[simp] theorem State.setResult_response (s : State) (st tg : Byte) (w : Word32) : (s.setResult st tg w).response = s.response := rfl
@[simp] theorem State.setResult_resetLine (s : State) (st tg : Byte) (w : Word32) : (s.setResult st tg w).resetLine = s.resetLine := rfl
@[simp] theorem State.setResult_inputs (s : State) (st tg : Byte) (w : Word32) : (s.setResult st tg w).inputs = s.inputs := rfl
@[simp] theorem State.setResult_taken (s : State) (st tg : Byte) (w : Word32) : (s.setResult st tg w).taken = s.taken := rfl
@[simp] theorem State.setResult_draws (s : State) (st tg : Byte) (w : Word32) : (s.setResult st tg w).draws = s.draws := rfl

/-! ### clearResult -/

@[simp] theorem State.clearResult_buf (s : State) : (s.clearResult).buf = s.buf := rfl
@[simp] theorem State.clearResult_txt (s : State) : (s.clearResult).txt = s.txt := rfl
@[simp] theorem State.clearResult_tlen (s : State) : (s.clearResult).tlen = s.tlen := rfl
@[simp] theorem State.clearResult_crc (s : State) : (s.clearResult).crc = s.crc := rfl
@[simp] theorem State.clearResult_status (s : State) : (s.clearResult).status = 0x00#8 := rfl
@[simp] theorem State.clearResult_tag (s : State) : (s.clearResult).tag = 0x00#8 := rfl
@[simp] theorem State.clearResult_wc (s : State) : (s.clearResult).wc = 0x00000000#32 := rfl
@[simp] theorem State.clearResult_response (s : State) : (s.clearResult).response = s.response := rfl
@[simp] theorem State.clearResult_resetLine (s : State) : (s.clearResult).resetLine = s.resetLine := rfl
@[simp] theorem State.clearResult_inputs (s : State) : (s.clearResult).inputs = s.inputs := rfl
@[simp] theorem State.clearResult_taken (s : State) : (s.clearResult).taken = s.taken := rfl
@[simp] theorem State.clearResult_draws (s : State) : (s.clearResult).draws = s.draws := rfl

/-! ### answer -/

@[simp] theorem State.answer_buf (s : State) (r : ResponseWord) : (s.answer r).buf = s.buf := rfl
@[simp] theorem State.answer_txt (s : State) (r : ResponseWord) : (s.answer r).txt = s.txt := rfl
@[simp] theorem State.answer_tlen (s : State) (r : ResponseWord) : (s.answer r).tlen = s.tlen := rfl
@[simp] theorem State.answer_crc (s : State) (r : ResponseWord) : (s.answer r).crc = s.crc := rfl
@[simp] theorem State.answer_status (s : State) (r : ResponseWord) : (s.answer r).status = s.status := rfl
@[simp] theorem State.answer_tag (s : State) (r : ResponseWord) : (s.answer r).tag = s.tag := rfl
@[simp] theorem State.answer_wc (s : State) (r : ResponseWord) : (s.answer r).wc = s.wc := rfl
@[simp] theorem State.answer_response (s : State) (r : ResponseWord) : (s.answer r).response = some r := rfl
@[simp] theorem State.answer_resetLine (s : State) (r : ResponseWord) : (s.answer r).resetLine = s.resetLine := rfl
@[simp] theorem State.answer_inputs (s : State) (r : ResponseWord) : (s.answer r).inputs = s.inputs := rfl
@[simp] theorem State.answer_taken (s : State) (r : ResponseWord) : (s.answer r).taken = s.taken := rfl
@[simp] theorem State.answer_draws (s : State) (r : ResponseWord) : (s.answer r).draws = s.draws := rfl

/-! ### respond -/

@[simp] theorem State.respond_buf (s : State) (d : Word32) : (s.respond d).buf = s.buf := rfl
@[simp] theorem State.respond_txt (s : State) (d : Word32) : (s.respond d).txt = s.txt := rfl
@[simp] theorem State.respond_tlen (s : State) (d : Word32) : (s.respond d).tlen = s.tlen := rfl
@[simp] theorem State.respond_crc (s : State) (d : Word32) : (s.respond d).crc = s.crc := rfl
@[simp] theorem State.respond_status (s : State) (d : Word32) : (s.respond d).status = s.status := rfl
@[simp] theorem State.respond_tag (s : State) (d : Word32) : (s.respond d).tag = s.tag := rfl
@[simp] theorem State.respond_wc (s : State) (d : Word32) : (s.respond d).wc = s.wc := rfl
@[simp] theorem State.respond_response (s : State) (d : Word32) : (s.respond d).response = some (responseWord .ok d) := rfl
@[simp] theorem State.respond_resetLine (s : State) (d : Word32) : (s.respond d).resetLine = s.resetLine := rfl
@[simp] theorem State.respond_inputs (s : State) (d : Word32) : (s.respond d).inputs = s.inputs := rfl
@[simp] theorem State.respond_taken (s : State) (d : Word32) : (s.respond d).taken = s.taken := rfl
@[simp] theorem State.respond_draws (s : State) (d : Word32) : (s.respond d).draws = s.draws := rfl

/-! ### fail -/

@[simp] theorem State.fail_buf (s : State) (e : ErrCode) : (s.fail e).buf = s.buf := rfl
@[simp] theorem State.fail_txt (s : State) (e : ErrCode) : (s.fail e).txt = s.txt := rfl
@[simp] theorem State.fail_tlen (s : State) (e : ErrCode) : (s.fail e).tlen = s.tlen := rfl
@[simp] theorem State.fail_crc (s : State) (e : ErrCode) : (s.fail e).crc = s.crc := rfl
@[simp] theorem State.fail_status (s : State) (e : ErrCode) : (s.fail e).status = s.status := rfl
@[simp] theorem State.fail_tag (s : State) (e : ErrCode) : (s.fail e).tag = s.tag := rfl
@[simp] theorem State.fail_wc (s : State) (e : ErrCode) : (s.fail e).wc = s.wc := rfl
@[simp] theorem State.fail_response (s : State) (e : ErrCode) : (s.fail e).response = some (responseWord e 0) := rfl
@[simp] theorem State.fail_resetLine (s : State) (e : ErrCode) : (s.fail e).resetLine = s.resetLine := rfl
@[simp] theorem State.fail_inputs (s : State) (e : ErrCode) : (s.fail e).inputs = s.inputs := rfl
@[simp] theorem State.fail_taken (s : State) (e : ErrCode) : (s.fail e).taken = s.taken := rfl
@[simp] theorem State.fail_draws (s : State) (e : ErrCode) : (s.fail e).draws = s.draws := rfl

/-! ### assertReset -/

@[simp] theorem State.assertReset_buf (s : State) : (s.assertReset).buf = s.buf := rfl
@[simp] theorem State.assertReset_txt (s : State) : (s.assertReset).txt = s.txt := rfl
@[simp] theorem State.assertReset_tlen (s : State) : (s.assertReset).tlen = s.tlen := rfl
@[simp] theorem State.assertReset_crc (s : State) : (s.assertReset).crc = s.crc := rfl
@[simp] theorem State.assertReset_status (s : State) : (s.assertReset).status = s.status := rfl
@[simp] theorem State.assertReset_tag (s : State) : (s.assertReset).tag = s.tag := rfl
@[simp] theorem State.assertReset_wc (s : State) : (s.assertReset).wc = s.wc := rfl
@[simp] theorem State.assertReset_response (s : State) : (s.assertReset).response = none := rfl
@[simp] theorem State.assertReset_resetLine (s : State) : (s.assertReset).resetLine = true := rfl
@[simp] theorem State.assertReset_inputs (s : State) : (s.assertReset).inputs = s.inputs := rfl
@[simp] theorem State.assertReset_taken (s : State) : (s.assertReset).taken = s.taken := rfl
@[simp] theorem State.assertReset_draws (s : State) : (s.assertReset).draws = s.draws := rfl

/-! ### withInputs -/

@[simp] theorem State.withInputs_buf (s : State) (rest : List HostInput) : (s.withInputs rest).buf = s.buf := rfl
@[simp] theorem State.withInputs_txt (s : State) (rest : List HostInput) : (s.withInputs rest).txt = s.txt := rfl
@[simp] theorem State.withInputs_tlen (s : State) (rest : List HostInput) : (s.withInputs rest).tlen = s.tlen := rfl
@[simp] theorem State.withInputs_crc (s : State) (rest : List HostInput) : (s.withInputs rest).crc = s.crc := rfl
@[simp] theorem State.withInputs_status (s : State) (rest : List HostInput) : (s.withInputs rest).status = s.status := rfl
@[simp] theorem State.withInputs_tag (s : State) (rest : List HostInput) : (s.withInputs rest).tag = s.tag := rfl
@[simp] theorem State.withInputs_wc (s : State) (rest : List HostInput) : (s.withInputs rest).wc = s.wc := rfl
@[simp] theorem State.withInputs_response (s : State) (rest : List HostInput) : (s.withInputs rest).response = s.response := rfl
@[simp] theorem State.withInputs_resetLine (s : State) (rest : List HostInput) : (s.withInputs rest).resetLine = s.resetLine := rfl
@[simp] theorem State.withInputs_inputs (s : State) (rest : List HostInput) : (s.withInputs rest).inputs = rest := rfl
@[simp] theorem State.withInputs_taken (s : State) (rest : List HostInput) : (s.withInputs rest).taken = s.taken := rfl
@[simp] theorem State.withInputs_draws (s : State) (rest : List HostInput) : (s.withInputs rest).draws = s.draws := rfl

/-! ### init -/

@[simp] theorem State.init_buf (b t : Nat → Byte) : (State.init b t).buf = Buffer.filled Config.recLen b := rfl
@[simp] theorem State.init_txt (b t : Nat → Byte) : (State.init b t).txt = Buffer.filled Config.txtCap t := rfl
@[simp] theorem State.init_tlen (b t : Nat → Byte) : (State.init b t).tlen = 0 := rfl
@[simp] theorem State.init_crc (b t : Nat → Byte) : (State.init b t).crc = 0 := rfl
@[simp] theorem State.init_status (b t : Nat → Byte) : (State.init b t).status = 0 := rfl
@[simp] theorem State.init_tag (b t : Nat → Byte) : (State.init b t).tag = 0 := rfl
@[simp] theorem State.init_wc (b t : Nat → Byte) : (State.init b t).wc = 0 := rfl
@[simp] theorem State.init_response (b t : Nat → Byte) : (State.init b t).response = none := rfl
@[simp] theorem State.init_resetLine (b t : Nat → Byte) : (State.init b t).resetLine = false := rfl
@[simp] theorem State.init_inputs (b t : Nat → Byte) : (State.init b t).inputs = [] := rfl
@[simp] theorem State.init_taken (b t : Nat → Byte) : (State.init b t).taken = [] := rfl
@[simp] theorem State.init_draws (b t : Nat → Byte) : (State.init b t).draws = 0 := rfl

/-! ### Buffers by space -/

@[simp] theorem State.mem_record (s : State) : s.mem .record = s.buf := rfl
@[simp] theorem State.mem_text (s : State) : s.mem .text = s.txt := rfl
@[simp] theorem State.setMem_record (s : State) (m : Buffer 36) : s.setMem .record m = s.setBuf m := rfl
@[simp] theorem State.setMem_text (s : State) (m : Buffer 64) : s.setMem .text m = s.setTxt m := rfl
@[simp] theorem Space.size_record : Space.record.size = 36 := rfl
@[simp] theorem Space.size_text : Space.text.size = 64 := rfl
@[simp] theorem State.readByte_record (s : State) (a : Nat) : s.readByte .record a = s.buf.read a := rfl
@[simp] theorem State.readByte_text (s : State) (a : Nat) : s.readByte .text a = s.txt.read a := rfl

end Sys2Proof.Machine
end

