-- ==== Sys2Proof/Laws/Memory.lean ====
section
/-! SUPPORT. What the buffer operations do, said once: a read after a write, a read or a slice found, and that the
architectural state is exactly the product of its seven elements. The form `Memory.wf` is kept by `Memory.filled_wf`
and `Memory.store_wf`, from which every buffer is made. -/

namespace Sys2Proof.Machine

/-! ### read -/

@[simp] theorem Memory.read_nil (a : Nat) : Memory.read [] a = none := rfl

theorem Memory.read_cons (c : Host.Cell) (m : Memory) (a : Nat) :
    Memory.read (c :: m) a = if a = c.1 then some c.2 else Memory.read m a := by
  obtain ⟨k, v⟩ := c
  simp only [Memory.read, List.lookup_cons]
  by_cases h : a = k
  · simp [h]
  · have hk : (a == k) = false := by simpa using h
    simp [h, hk]

theorem Memory.read_isSome_iff (m : Memory) (a : Nat) : (m.read a).isSome ↔ a ∈ m.map Prod.fst := by
  induction m with
  | nil => simp
  | cons c m ih =>
    rw [Memory.read_cons]
    by_cases h : a = c.1 <;> simp [h, ih]

/-- A buffer in its form has exactly its locations. -/
theorem Memory.read_isSome_of_wf {n : Nat} {m : Memory} (h : m.wf n) (a : Nat) :
    (m.read a).isSome ↔ a < n := by
  rw [Memory.read_isSome_iff, h, List.mem_range]

theorem Memory.exists_read_of_wf {n : Nat} {m : Memory} (h : m.wf n) {a : Nat} (ha : a < n) :
    ∃ v, m.read a = some v :=
  Option.isSome_iff_exists.mp ((Memory.read_isSome_of_wf h a).mpr ha)

theorem Memory.read_eq_none_of_wf {n : Nat} {m : Memory} (h : m.wf n) {a : Nat} (ha : n ≤ a) :
    m.read a = none := by
  have := (Memory.read_isSome_of_wf h a).not.mpr (by omega)
  simpa using this

/-! ### store -/

/-- A read after a store: the stored byte inside the stored range, the old byte outside. -/
theorem Memory.read_store (m : Memory) (lo : Nat) (bs : List Byte) (a : Nat) :
    (m.store lo bs).read a = (m.read a).map fun v => if a < lo then v else bs.getD (a - lo) v := by
  induction m with
  | nil => rfl
  | cons c m ih =>
    have hcons : Memory.store (c :: m) lo bs =
        (if c.1 < lo then c else (c.1, bs.getD (c.1 - lo) c.2)) :: Memory.store m lo bs := rfl
    rw [hcons, Memory.read_cons, Memory.read_cons, ih]
    by_cases hlo : c.1 < lo <;> by_cases ha : a = c.1 <;> simp [hlo, ha]

/-- Outside the stored range a store changes no byte. -/
theorem Memory.read_store_of_outside (m : Memory) (lo : Nat) (bs : List Byte) (a : Nat)
    (h : a < lo ∨ lo + bs.length ≤ a) : (m.store lo bs).read a = m.read a := by
  rw [Memory.read_store]
  rcases h with h | h
  · simp [h]
  · have : bs[a - lo]? = none := by simp; omega
    by_cases h' : a < lo <;> simp [h', List.getD, this]

/-- Inside the stored range a read of a location that exists gives the stored byte. -/
theorem Memory.read_store_of_inside (m : Memory) (lo : Nat) (bs : List Byte) (a : Nat) (v : Byte)
    (hm : (m.read a).isSome) (hlo : lo ≤ a) (hv : bs[a - lo]? = some v) :
    (m.store lo bs).read a = some v := by
  obtain ⟨w, hw⟩ := Option.isSome_iff_exists.mp hm
  rw [Memory.read_store, hw]
  simp [Nat.not_lt.mpr hlo, List.getD, hv]

theorem Memory.read_filled (n : Nat) (f : Nat → Byte) {a : Nat} (h : a < n) :
    (Memory.filled n f).read a = some (f a) := by
  have key : ∀ l : List Nat, a ∈ l → Memory.read (l.map fun k => (k, f k)) a = some (f a) := by
    intro l
    induction l with
    | nil => simp
    | cons k l ih =>
      intro hm
      rw [List.map_cons, Memory.read_cons]
      by_cases hk : a = k
      · simp [hk]
      · simp only [hk, if_false]
        exact ih (by simpa [hk] using hm)
  exact key _ (List.mem_range.mpr h)

/-- Two buffers in their form that read alike are equal: the form is canonical. -/
theorem Memory.eq_of_read_eq {n : Nat} {m m' : Memory} (h : m.wf n) (h' : m'.wf n)
    (hr : ∀ a, m.read a = m'.read a) : m = m' := by
  have nodup : ∀ l : Memory, (l.map Prod.fst).Nodup → ∀ c ∈ l, l.read c.1 = some c.2 := by
    intro l
    induction l with
    | nil => simp
    | cons d l ih =>
      intro hn c hc
      rw [Memory.read_cons]
      rcases List.mem_cons.mp hc with rfl | hc
      · simp
      · have hne : c.1 ≠ d.1 := by
          intro he
          exact (List.nodup_cons.mp hn).1 (he ▸ List.mem_map_of_mem (f := Prod.fst) hc)
        rw [if_neg hne]
        exact ih (List.nodup_cons.mp hn).2 c hc
  have hlen : m.length = m'.length := by
    have := congrArg List.length (h.trans h'.symm)
    simpa using this
  refine List.ext_getElem hlen fun i hi hi' => ?_
  have hk : (m[i]).1 = (m'[i]).1 := by
    have e : m.map Prod.fst = m'.map Prod.fst := h.trans h'.symm
    have := congrArg (fun l => l[i]?) e
    simpa [hi, hi'] using this
  have hn : (m.map Prod.fst).Nodup := by rw [h]; exact List.nodup_range
  have hn' : (m'.map Prod.fst).Nodup := by rw [h']; exact List.nodup_range
  have h1 := nodup m hn _ (List.getElem_mem hi)
  have h2 := nodup m' hn' _ (List.getElem_mem hi')
  rw [hr, hk, h2] at h1
  exact Prod.ext hk (Option.some.inj h1).symm

/-! ### slice -/

/-- What a slice found says, byte by byte. -/
theorem Memory.slice_eq_some_iff (m : Memory) (lo n : Nat) (bs : List Byte) :
    m.slice lo n = some bs ↔ bs.length = n ∧ ∀ k, k < n → m.read (lo + k) = bs[k]? := by
  induction n generalizing lo bs with
  | zero =>
    cases bs <;> simp [Memory.slice]
  | succ n ih =>
    cases bs with
    | nil =>
      cases h1 : m.read lo <;> cases h2 : m.slice (lo + 1) n <;> simp [Memory.slice, h1, h2]
    | cons b bs =>
      have hs : m.slice lo (n + 1) = some (b :: bs) ↔ m.read lo = some b ∧ m.slice (lo + 1) n = some bs := by
        cases h1 : m.read lo <;> cases h2 : m.slice (lo + 1) n <;> simp [Memory.slice, h1, h2]
      rw [hs, ih]
      constructor
      · rintro ⟨h0, hl, hk⟩
        refine ⟨by simp [hl], fun k hk' => ?_⟩
        cases k with
        | zero => simpa using h0
        | succ k =>
          have := hk k (by omega)
          simpa [Nat.add_assoc, Nat.add_comm 1 k] using this
      · rintro ⟨hl, hk⟩
        refine ⟨by simpa using hk 0 (by omega), by simpa using hl, fun k hk' => ?_⟩
        have := hk (k + 1) (by omega)
        simpa [Nat.add_assoc, Nat.add_comm 1 k] using this

theorem Memory.slice_length {m : Memory} {lo n : Nat} {bs : List Byte} (h : m.slice lo n = some bs) :
    bs.length = n := ((Memory.slice_eq_some_iff m lo n bs).mp h).1

/-- A slice inside a buffer in its form is found. -/
theorem Memory.exists_slice_of_wf {size : Nat} {m : Memory} (h : m.wf size) (lo n : Nat) (hn : lo + n ≤ size) :
    ∃ bs, m.slice lo n = some bs := by
  induction n generalizing lo with
  | zero => exact ⟨[], rfl⟩
  | succ n ih =>
    obtain ⟨bs, hbs⟩ := ih (lo + 1) (by omega)
    obtain ⟨v, hv⟩ := Memory.exists_read_of_wf h (a := lo) (by omega)
    exact ⟨v :: bs, by simp [Memory.slice, hv, hbs]⟩

/-- Two buffers that read alike in a range have the same slice there. -/
theorem Memory.slice_congr {m m' : Memory} {lo n : Nat} (h : ∀ k, k < n → m.read (lo + k) = m'.read (lo + k)) :
    m.slice lo n = m'.slice lo n := by
  induction n generalizing lo with
  | zero => rfl
  | succ n ih =>
    have h0 := h 0 (by omega)
    have ih' := ih (lo := lo + 1) fun k hk => by
      have := h (k + 1) (by omega)
      simpa [Nat.add_assoc, Nat.add_comm 1 k] using this
    simp only [Nat.add_zero] at h0
    simp [Memory.slice, h0, ih']

/-! ### Buffers -/

@[simp] theorem Buffer.cells_filled (size : Nat) (f : Nat → Byte) :
    (Buffer.filled size f).cells = Memory.filled size f := rfl

@[simp] theorem Buffer.cells_store {size : Nat} (b : Buffer size) (lo : Nat) (bs : List Byte) :
    (b.store lo bs).cells = b.cells.store lo bs := rfl

/-- A buffer has exactly its locations. -/
theorem Buffer.read_isSome {size : Nat} (b : Buffer size) (a : Nat) : (b.read a).isSome ↔ a < size :=
  Memory.read_isSome_of_wf b.form a

theorem Buffer.exists_read {size : Nat} (b : Buffer size) {a : Nat} (ha : a < size) : ∃ v, b.read a = some v :=
  Memory.exists_read_of_wf b.form ha

theorem Buffer.read_eq_none {size : Nat} (b : Buffer size) {a : Nat} (ha : size ≤ a) : b.read a = none :=
  Memory.read_eq_none_of_wf b.form ha

theorem Buffer.read_filled (size : Nat) (f : Nat → Byte) {a : Nat} (h : a < size) :
    (Buffer.filled size f).read a = some (f a) := Memory.read_filled size f h

/-- A read after a store: the stored byte inside the stored range, the old byte outside. -/
theorem Buffer.read_store {size : Nat} (b : Buffer size) (lo : Nat) (bs : List Byte) (a : Nat) :
    (b.store lo bs).read a = (b.read a).map fun v => if a < lo then v else bs.getD (a - lo) v :=
  Memory.read_store b.cells lo bs a

/-- Outside the stored range a store changes no byte. -/
theorem Buffer.read_store_of_outside {size : Nat} (b : Buffer size) (lo : Nat) (bs : List Byte) (a : Nat)
    (h : a < lo ∨ lo + bs.length ≤ a) : (b.store lo bs).read a = b.read a :=
  Memory.read_store_of_outside b.cells lo bs a h

/-- Inside the stored range a read of a location that exists gives the stored byte. -/
theorem Buffer.read_store_of_inside {size : Nat} (b : Buffer size) (lo : Nat) (bs : List Byte) (a : Nat) (v : Byte)
    (ha : a < size) (hlo : lo ≤ a) (hv : bs[a - lo]? = some v) : (b.store lo bs).read a = some v :=
  Memory.read_store_of_inside b.cells lo bs a v ((b.read_isSome a).mpr ha) hlo hv

/-- Two buffers with the same pairs are equal. -/
theorem Buffer.eq_of_cells_eq {size : Nat} {b b' : Buffer size} (h : b.cells = b'.cells) : b = b' := by
  cases b; cases b'; cases h; rfl

/-- Two buffers that read alike are equal: the form is canonical. -/
theorem Buffer.eq_of_read_eq {size : Nat} {b b' : Buffer size} (h : ∀ a, b.read a = b'.read a) : b = b' :=
  Buffer.eq_of_cells_eq (Memory.eq_of_read_eq b.form b'.form h)

/-- What a slice found says, byte by byte. -/
theorem Buffer.slice_eq_some_iff {size : Nat} (b : Buffer size) (lo n : Nat) (bs : List Byte) :
    b.slice lo n = some bs ↔ bs.length = n ∧ ∀ k, k < n → b.read (lo + k) = bs[k]? :=
  Memory.slice_eq_some_iff b.cells lo n bs

theorem Buffer.slice_length {size : Nat} {b : Buffer size} {lo n : Nat} {bs : List Byte} (h : b.slice lo n = some bs) :
    bs.length = n := Memory.slice_length h

/-- A slice inside a buffer is found. -/
theorem Buffer.exists_slice {size : Nat} (b : Buffer size) (lo n : Nat) (hn : lo + n ≤ size) :
    ∃ bs, b.slice lo n = some bs := Memory.exists_slice_of_wf b.form lo n hn

/-- Two buffers that read alike in a range have the same slice there. -/
theorem Buffer.slice_congr {size size' : Nat} {b : Buffer size} {b' : Buffer size'} {lo n : Nat}
    (h : ∀ k, k < n → b.read (lo + k) = b'.read (lo + k)) : b.slice lo n = b'.slice lo n := Memory.slice_congr h

/-- A put inside a buffer is the store. -/
theorem Buffer.put_of_le {size : Nat} (b : Buffer size) (lo : Nat) (bs : List Byte) (h : lo + bs.length ≤ size) :
    b.put lo bs = some (b.store lo bs) := if_pos h

/-- A put that answers is the store. -/
theorem Buffer.put_eq_some {size : Nat} {b b' : Buffer size} {lo : Nat} {bs : List Byte} (h : b.put lo bs = some b') :
    lo + bs.length ≤ size ∧ b' = b.store lo bs := by
  unfold Buffer.put at h
  split at h
  · exact ⟨‹_›, (Option.some.inj h).symm⟩
  · cases h

/-- `BUF` holds a record, with its 32 account bytes. -/
theorem Buffer.record_found (b : Buffer 36) :
    ∃ tag wcByte account hi lo, b.read 0 = some tag ∧ b.read 1 = some wcByte ∧
      b.slice 2 32 = some account ∧ b.read 34 = some hi ∧ b.read 35 = some lo ∧
      b.record = some ⟨tag, wcByte, account, hi, lo⟩ := by
  obtain ⟨tag, h0⟩ := b.exists_read (a := 0) (by omega)
  obtain ⟨wcByte, h1⟩ := b.exists_read (a := 1) (by omega)
  obtain ⟨account, h2⟩ := b.exists_slice 2 32 (by omega)
  obtain ⟨hi, h34⟩ := b.exists_read (a := 34) (by omega)
  obtain ⟨lo, h35⟩ := b.exists_read (a := 35) (by omega)
  exact ⟨tag, wcByte, account, hi, lo, h0, h1, h2, h34, h35, by simp [Buffer.record, h0, h1, h2, h34, h35]⟩

/-! ### The architectural state is the product of its seven elements (10_state.md R10) -/

/-- The buffers of a size are the arrays of that many bytes, one to one. -/
def Buffer.equivArray (size : Nat) : Buffer size ≃ Vector Byte size where
  toFun b := ⟨(b.cells.map Prod.snd).toArray, by simpa using congrArg List.length b.form⟩
  invFun bytes := ⟨(List.range size).zip bytes.toList, List.map_fst_zip (by simp)⟩
  left_inv b := Buffer.eq_of_cells_eq (by simpa using (List.zip_of_prod b.form rfl).symm)
  right_inv bytes := Vector.toList_inj.mp (by
    have : ((List.range size).zip bytes.toList).map Prod.snd = bytes.toList := List.map_snd_zip (by simp)
    simp [this])

/-- The array of a buffer holds at each index the byte the buffer reads there. -/
theorem Buffer.read_eq_equivArray {size : Nat} (b : Buffer size) (a : Nat) (h : a < size) :
    b.read a = some ((Buffer.equivArray size b)[a]) := by
  have hc : b = Buffer.filled size fun k => (Buffer.equivArray size b).toList.getD k 0 := by
    refine (Buffer.equivArray size).injective (Vector.ext fun i hi => ?_)
    have hl : i < b.cells.length := by
      have : b.cells.length = size := by simpa using congrArg List.length b.form
      omega
    simp [Buffer.equivArray, Buffer.filled, Memory.filled, List.getElem?_eq_getElem hl]
  conv_lhs => rw [hc]
  rw [Buffer.read_filled _ _ h]
  simp [h]

/-- The architectural states are the tuples of the seven elements, one to one: no more and no fewer. -/
def ArchState.equivProduct :
    ArchState ≃ Vector Byte 36 × Vector Byte 64 × BitVec 7 × BitVec 16 × BitVec 8 × BitVec 8 × BitVec 32 where
  toFun a := (Buffer.equivArray 36 a.buf, Buffer.equivArray 64 a.txt, a.tlen, a.crc, a.status, a.tag, a.wc)
  invFun p := ⟨(Buffer.equivArray 36).symm p.1, (Buffer.equivArray 64).symm p.2.1, p.2.2.1, p.2.2.2.1, p.2.2.2.2.1,
    p.2.2.2.2.2.1, p.2.2.2.2.2.2⟩
  left_inv a := by simp
  right_inv p := by simp

end Sys2Proof.Machine
end

