-- ==== Sys2Proof/Laws/Ops.lean ====
section
/-! SUPPORT. What the shared operations of the meanings do, said once each: how a body ends, a composite continues, a
byte is stored and loaded, a response is taken, reset is released, and which cases a step has. -/

namespace Sys2Proof.Machine

/-! ### The response word -/

/-- A response word has the layout of a command word with zeros above the error code. -/
theorem responseWord_eq_c64 (e : ErrCode) (d : Word32) : responseWord e d = c64 0 0 0 e.code d := by
  apply BitVec.eq_of_getLsbD_eq
  intro i hi
  have h : (responseWord e d).getLsbD i = @BitVec.getLsbD (24 + 8 + 32) (0#24 ++ e.code ++ d) i := rfl
  rw [h, getLsbD_c64]
  simp only [BitVec.getLsbD_append]
  repeat' split
  all_goals first | omega | rfl | simp

@[simp] theorem responseErr_responseWord (e : ErrCode) (d : Word32) : responseErr (responseWord e d) = e.code := by
  rw [responseWord_eq_c64]
  exact fieldZ_c64 _ _ _ _ _

@[simp] theorem responseData_responseWord (e : ErrCode) (d : Word32) : responseData (responseWord e d) = d := by
  rw [responseWord_eq_c64]
  exact fieldImm_c64 _ _ _ _ _

/-- A successful response is its data, zero-extended. -/
theorem responseWord_ok (d : Word32) : responseWord .ok d = d.setWidth 64 := by
  apply BitVec.eq_of_getLsbD_eq
  intro i hi
  rw [responseWord_eq_c64, getLsbD_c64]
  simp only [ErrCode.code, BitVec.getLsbD_setWidth, hi, decide_true, Bool.true_and]
  split
  · rfl
  · rw [BitVec.getLsbD_of_ge d i (by omega)]
    repeat' split
    all_goals simp

/-- The responses with data 0, as the words they are (60_exceptions.md R120). -/
@[simp] theorem responseWord_zero (e : ErrCode) : responseWord e 0#32 =
    match e with
    | .ok => 0x0000000000000000#64
    | .illegal => 0x0000000100000000#64
    | .index => 0x0000000200000000#64
    | .workchain => 0x0000000300000000#64
    | .length => 0x0000000400000000#64
    | .alphabet => 0x0000000500000000#64
    | .checksum => 0x0000000600000000#64 := by
  cases e <;> decide

/-! ### How a body ends -/

@[simp] theorem Ended.finish_ended (e : ErrCode) (d : Word32) (s : State) :
    (Ended.ended e d s).finish = .next (s.answer (responseWord e d)) := rfl

@[simp] theorem Ended.finish_absent (sp : Space) :
    (Ended.absent sp).finish = .fault (.absentLocation sp) := rfl

/-- A body that finishes with a next state ended with a code, data and a state. -/
theorem Ended.finish_eq_next {b : Ended} {t : State} (h : b.finish = .next t) :
    ∃ e d s, b = .ended e d s ∧ t = s.answer (responseWord e d) := by
  cases b with
  | ended e d s => exact ⟨e, d, s, rfl, by simpa using h.symm⟩
  | absent sp => cases h

/-- No body is refused. -/
theorem Ended.finish_ne_refused (b : Ended) (r : Refusal) : b.finish ≠ .refused r := by
  cases b <;> simp

@[simp] theorem Ended.andThen_done (s : State) (d : Word32) (k : State → Ended) :
    (Ended.done s d).andThen k = k s := rfl

@[simp] theorem Ended.andThen_absent (sp : Space) (k : State → Ended) :
    (Ended.absent sp).andThen k = .absent sp := rfl

theorem Ended.andThen_failed {e : ErrCode} (he : e ≠ .ok) (d : Word32) (s : State) (k : State → Ended) :
    (Ended.ended e d s).andThen k = .ended e d s := by
  cases e <;> first | exact absurd rfl he | rfl

@[simp] theorem present_some {α : Type} (sp : Space) (v : α) (k : α → Ended) : present sp (some v) k = k v := rfl

@[simp] theorem present_none {α : Type} (sp : Space) (k : α → Ended) : present sp none k = .absent sp := rfl

/-! ### One byte, by index -/

/-- A one-byte store outside the space fails and writes nothing. -/
theorem storeByte_of_outside (sp : Space) (idx val : Byte) (s : State) (h : sp.size ≤ idx.toNat) :
    storeByte sp idx val s = .failed .index s := by
  simp [storeByte, operandNat, Nat.not_lt.mpr h]

/-- A one-byte store inside the space writes the byte. -/
theorem storeByte_of_inside (sp : Space) (idx val : Byte) (s : State) (h : idx.toNat < sp.size) :
    storeByte sp idx val s = .done (s.setMem sp ((s.mem sp).store idx.toNat [val])) 0 := by
  have hp := (s.mem sp).put_of_le idx.toNat [val] (by simpa using h)
  simp [storeByte, operandNat, h, hp]

/-- All a one-byte store can do. -/
theorem storeByte_cases (sp : Space) (idx val : Byte) (s : State) :
    (sp.size ≤ idx.toNat ∧ storeByte sp idx val s = .failed .index s) ∨
      (idx.toNat < sp.size ∧
        storeByte sp idx val s = .done (s.setMem sp ((s.mem sp).store idx.toNat [val])) 0) :=
  (Nat.lt_or_ge idx.toNat sp.size).symm.imp (fun h => ⟨h, storeByte_of_outside sp idx val s h⟩)
    fun h => ⟨h, storeByte_of_inside sp idx val s h⟩

/-- A one-byte load outside the space fails. -/
theorem loadByte_of_outside (sp : Space) (idx : Byte) (s : State) (h : sp.size ≤ idx.toNat) :
    loadByte sp idx s = .failed .index s := by
  simp [loadByte, operandNat, Nat.not_lt.mpr h]

/-- A one-byte load of a location that exists answers its byte, zero-extended. -/
theorem loadByte_of_read (sp : Space) (idx v : Byte) (s : State) (h : idx.toNat < sp.size)
    (hv : s.readByte sp idx.toNat = some v) : loadByte sp idx s = .done s (v.setWidth 32) := by
  simp [loadByte, operandNat, h, hv]

/-- Every location of a space reads as some byte. -/
theorem State.exists_readByte (s : State) (sp : Space) {a : Nat} (h : a < sp.size) : ∃ v, s.readByte sp a = some v :=
  (s.mem sp).exists_read h

/-- All a one-byte load can do. -/
theorem loadByte_cases (sp : Space) (idx : Byte) (s : State) :
    (sp.size ≤ idx.toNat ∧ loadByte sp idx s = .failed .index s) ∨
      (idx.toNat < sp.size ∧ ∃ v, s.readByte sp idx.toNat = some v ∧ loadByte sp idx s = .done s (v.setWidth 32)) := by
  rcases Nat.lt_or_ge idx.toNat sp.size with h | h
  · obtain ⟨v, hv⟩ := s.exists_readByte sp h
    exact .inr ⟨h, v, hv, loadByte_of_read sp idx v s h hv⟩
  · exact .inl ⟨h, loadByte_of_outside sp idx s h⟩

/-! ### Reset input and response port -/

theorem State.takeResponse_of_some {s : State} {r : ResponseWord} (h : s.response = some r) :
    s.takeResponse = { s with response := none, taken := r :: s.taken } := by
  simp [State.takeResponse, h]

theorem State.takeResponse_of_none {s : State} (h : s.response = none) : s.takeResponse = s := by
  simp [State.takeResponse, h]

theorem State.releaseReset_of_asserted {s : State} (h : s.resetLine = true) :
    s.releaseReset =
      { State.init (Config.resetBuf (s.draws + 1)) (Config.resetTxt (s.draws + 1)) with
        inputs := s.inputs, taken := s.taken, draws := s.draws + 1 } := by
  simp [State.releaseReset, h]

theorem State.releaseReset_of_released {s : State} (h : s.resetLine = false) : s.releaseReset = s := by
  simp [State.releaseReset, h]

/-! ### The step -/

/-- All a command word at the port can meet. -/
theorem acceptCommand_cases (w : CommandWord) (s : State) :
    (s.resetLine = true ∧ acceptCommand w s = .refused .commandDuringReset) ∨
    (s.resetLine = false ∧ (∃ r, s.response = some r) ∧ acceptCommand w s = .refused .commandBeforeResponse) ∨
    (s.resetLine = false ∧ s.response = none ∧ acceptCommand w s = runWord w s) := by
  cases hl : s.resetLine <;> cases hr : s.response <;> simp [acceptCommand, hl, hr]

/-- A word the block runs is a command or is illegal. -/
theorem runWord_cases (w : CommandWord) (s : State) :
    (∃ i, decode w = .ok i ∧ runWord w s = exec i s) ∨
    (∃ e, decode w = .error e ∧ runWord w s = .next (s.fail .illegal)) := by
  cases h : decode w with
  | ok i => exact .inl ⟨i, rfl, by simp [runWord, h]⟩
  | error e => exact .inr ⟨e, rfl, by simp [runWord, h]⟩

/-- All a step that answers a next state can have done. -/
theorem step_cases {s t : State} (h : step s = .next t) :
    (s.inputs = [] ∧ t = s) ∨
    (∃ w rest, s.inputs = .command w :: rest ∧ s.resetLine = false ∧ s.response = none ∧
      runWord w (s.withInputs rest) = .next t) ∨
    (∃ rest, s.inputs = .takeResponse :: rest ∧ t = (s.withInputs rest).takeResponse) ∨
    (∃ rest, s.inputs = .assertReset :: rest ∧ t = (s.withInputs rest).assertReset) ∨
    (∃ rest, s.inputs = .releaseReset :: rest ∧ t = (s.withInputs rest).releaseReset) := by
  unfold step at h
  split at h
  · exact .inl ⟨‹_›, by cases h; rfl⟩
  · rename_i w rest hi
    rcases acceptCommand_cases w (s.withInputs rest) with ⟨_, hc⟩ | ⟨_, _, hc⟩ | ⟨hl, hr, hc⟩
    · rw [hc] at h; cases h
    · rw [hc] at h; cases h
    · exact .inr (.inl ⟨w, rest, hi, hl, hr, hc ▸ h⟩)
  · rename_i rest hi
    exact .inr (.inr (.inl ⟨rest, hi, by cases h; rfl⟩))
  · rename_i rest hi
    exact .inr (.inr (.inr (.inl ⟨rest, hi, by cases h; rfl⟩)))
  · rename_i rest hi
    exact .inr (.inr (.inr (.inr ⟨rest, hi, by cases h; rfl⟩)))

end Sys2Proof.Machine
end

