-- ==== Sys2Proof/Laws/Bodies.lean ====
section
/-! SUPPORT. All that the bodies shared by the plain and the composite commands can do, said once each, on any state:
which code they end with and which elements they write. No location is ever missing. -/

namespace Sys2Proof.Machine

/-- The four bytes around the account identifier always find their place in `BUF`. -/
theorem Buffer.putAround_eq (m : Buffer 36) (r : Record) :
    m.putAround r = some ((m.store 0 [r.tag, r.wcByte]).store 34 [r.sumHigh, r.sumLow]) := rfl

/-- All the body of `PACK` can do: refuse the workchain with nothing written, or write `BUF` and `CRC` only
(41_pack.md R70). -/
theorem packBody_cases (flg : Byte) (wc : Word32) (s : State) :
    (legalWorkchain (operandInt wc) = false ∧ packBody flg wc s = .failed .workchain s) ∨
    (legalWorkchain (operandInt wc) = true ∧ ∃ account m, s.buf.slice 2 32 = some account ∧
      s.buf.putAround (packRecord flg wc account) = some m ∧
      packBody flg wc s = .done ((s.setBuf m).setCrc (crc16 (packRecord flg wc account).covered)) 0#32) := by
  unfold packBody
  cases hl : legalWorkchain (operandInt wc) with
  | false => exact .inl ⟨rfl, rfl⟩
  | true =>
    obtain ⟨account, ha⟩ := s.buf.exists_slice 2 32 (by decide)
    simp only [if_true, Config.accLen, ha, present_some, Buffer.putAround_eq]
    exact .inr ⟨trivial, account, _, rfl, Buffer.putAround_eq _ _, rfl⟩

/-- All the body of `B64ENC` can do: write `TXT` and `TLEN` only (42_base64.md R75). -/
theorem b64encBody_eq (s : State) :
    ∃ bytes, s.buf.slice 0 36 = some bytes ∧
      b64encBody s = .done ((s.setTxt (s.txt.store 0 (b64Encode bytes))).setTlen 48#7) 0#32 := by
  obtain ⟨bytes, hb⟩ := s.buf.exists_slice 0 36 (by decide)
  have hp := s.txt.put_of_le 0 (b64Encode bytes) (by
    rw [b64Encode_length bytes (Buffer.slice_length hb)]; decide)
  unfold b64encBody
  simp only [Config.recLen, hb, present_some, hp]
  exact ⟨bytes, rfl, rfl⟩

/-- All the body of `B64DEC` can do: fail on the length or on a character with nothing written, or write `BUF` only
(42_base64.md R77). -/
theorem b64decBody_cases (s : State) :
    (s.tlen.toNat ≠ 48 ∧ b64decBody s = .failed .length s) ∨
    (s.tlen.toNat = 48 ∧ ∃ text, s.txt.slice 0 48 = some text ∧ textValues text = none ∧
      b64decBody s = .failed .alphabet s) ∨
    (s.tlen.toNat = 48 ∧ ∃ text vs, s.txt.slice 0 48 = some text ∧ textValues text = some vs ∧
      b64decBody s = .done (s.setBuf (s.buf.store 0 (groupBytes vs))) 0#32) := by
  unfold b64decBody
  by_cases hl : s.tlen.toNat = 48
  · obtain ⟨text, ht⟩ := s.txt.exists_slice 0 48 (by decide)
    simp only [Config.txtLen, hl, ne_eq, not_true_eq_false, if_false, ht, present_some, b64Decode]
    cases hv : textValues text with
    | none => exact .inr (.inl ⟨trivial, text, rfl, hv, rfl⟩)
    | some vs =>
      have hn : (groupBytes vs).length = 36 :=
        groupBytes_length 12 vs (by rw [(textValues_eq_some hv).1, Buffer.slice_length ht])
      have hp := s.buf.put_of_le 0 (groupBytes vs) (by simp [hn])
      simp only [Option.map_some, hp, present_some]
      exact .inr (.inr ⟨trivial, text, vs, rfl, hv, rfl⟩)
  · exact .inl ⟨hl, by simp [hl]⟩

/-- All the body of `CHECK` can do: write `CRC` and the result registers as `State.checked` says (43_check.md R85). -/
theorem checkBody_eq (s : State) :
    ∃ r, s.buf.record = some r ∧
      checkBody s = .ended (if r.sumMatches then .ok else .checksum) 0#32 (s.checked r) := by
  obtain ⟨_, _, _, _, _, _, _, _, _, _, hr⟩ := s.buf.record_found
  exact ⟨_, hr, by simp only [checkBody, hr, present_some]⟩

/-- What `CHECK` makes of a record whose checksum matches. -/
theorem State.checked_of_match (s : State) {r : Record} (h : r.sumMatches = true) :
    s.checked r = (s.setCrc (crc16 r.covered)).setResult (validStatus r.tag) r.tag (readWorkchain r.wcByte) := by
  simp only [State.checked, h, if_true]

/-- What `CHECK` makes of a record whose checksum does not match. -/
theorem State.checked_of_mismatch (s : State) {r : Record} (h : r.sumMatches = false) :
    s.checked r = (s.setCrc (crc16 r.covered)).clearResult := by
  simp [State.checked, h]

/-- The base64 stage of `DECODE` does what `B64DEC` does, and clears the result registers where it fails
(44_codec.md R91). -/
theorem decodeTextBody_of_done {s t : State} {d : Word32} (h : b64decBody s = .done t d) :
    decodeTextBody s = .done t d := by
  simp only [decodeTextBody, h]

theorem decodeTextBody_of_failed {s t : State} {e : ErrCode} {d : Word32} (he : e ≠ .ok)
    (h : b64decBody s = .ended e d t) : decodeTextBody s = .ended e d t.clearResult := by
  cases e <;> first | exact absurd rfl he | simp only [decodeTextBody, h]

end Sys2Proof.Machine
end

