-- ==== Sys2Proof/Laws/Crc.lean ====
section
/-! SUPPORT. The equations of the checksum engine's folds (spec/40_crc.md R62, R63), for rewriting: unfolding a fold by
`rfl` over an open register is slow. -/

namespace Sys2Proof.Machine

@[simp] theorem crcRun_nil (r : Sum) : crcRun r [] = r := rfl

theorem crcRun_cons (r : Sum) (v : Byte) (p : List Byte) : crcRun r (v :: p) = crcRun (crcByte r v) p := rfl

/-- The padding, as the two bytes it is. -/
theorem crcRun_pad (r : Sum) : crcRun r Config.crcPad = crcByte (crcByte r 0x00#8) 0x00#8 := by
  simp only [Config.crcPad, crcRun_cons, crcRun_nil]

@[simp] theorem crcDirect_nil (r : Sum) : crcDirect r [] = r := List.foldl_nil

theorem crcDirect_cons (r : Sum) (v : Byte) (p : List Byte) :
    crcDirect r (v :: p) = crcDirect (crcDirectByte r v) p := List.foldl_cons ..

end Sys2Proof.Machine
end

