-- ==== Sys2Proof/Laws/HostSoftware.lean ====
section
/-! SUPPORT. How the host procedures drive the block, said once: what one command leaves, how sequences of commands and
parts of a procedure are put together (spec/48_host_software.md, spec/70_reset_and_hazards.md R145). -/

namespace Sys2Proof.Machine

/-! ### Parts of a procedure -/

@[simp] theorem HostRun.andThen_ok {ε α β : Type} (v : α) (s : State) (k : α → State → HostRun ε β) :
    HostRun.andThen (some (.ok v, s)) k = k v s := rfl

@[simp] theorem HostRun.andThen_error {ε α β : Type} (e : ε) (s : State) (k : α → State → HostRun ε β) :
    HostRun.andThen (some (.error e, s)) k = some (.error e, s) := rfl

@[simp] theorem HostRun.andThen_none {ε α β : Type} (k : α → State → HostRun ε β) : HostRun.andThen none k = none := rfl

@[simp] theorem HostRun.reportAs_ok {ε ε' α : Type} (e' : ε') (v : α) (s : State) :
    HostRun.reportAs (ε := ε) (some (.ok v, s)) e' = some (.ok v, s) := rfl

@[simp] theorem HostRun.reportAs_error {ε ε' α : Type} (e' : ε') (e : ε) (s : State) :
    HostRun.reportAs (α := α) (some (.error e, s)) e' = some (.error e', s) := rfl

@[simp] theorem HostRun.reportAs_none {ε ε' α : Type} (e' : ε') :
    HostRun.reportAs (ε := ε) (α := α) none e' = none := rfl

/-- All the first part of a procedure can do to the next. -/
theorem HostRun.andThen_eq_some {ε α β : Type} {x : HostRun ε α} {k : α → State → HostRun ε β} {y : Except ε β × State}
    (h : x.andThen k = some y) :
    (∃ v s, x = some (.ok v, s) ∧ k v s = some y) ∨ (∃ e s, x = some (.error e, s) ∧ y = (.error e, s)) := by
  match x with
  | none => cases h
  | some (.ok v, s) => exact .inl ⟨v, s, rfl, h⟩
  | some (.error e, s) => exact .inr ⟨e, s, rfl, by simpa using h.symm⟩

/-! ### Commands -/

/-- What one command leaves where the port is free: its response, and the state it leaves with the response taken. -/
theorem transact_of_exec {w : CommandWord} {i : Instr} {s t : State} {r : ResponseWord} (hd : decode w = .ok i)
    (hl : s.resetLine = false) (hr : s.response = none) (he : exec i { s with inputs := [.takeResponse] } = .next t)
    (hi : t.inputs = [.takeResponse]) (ht : t.response = some r) :
    transact w s = some (r, { t with inputs := [], response := none, taken := r :: t.taken }) := by
  have first : step { s with inputs := [.command w, .takeResponse] } = .next t := by
    simpa [step, acceptCommand, State.withInputs, runWord, hl, hr, hd] using he
  have second : step t = .next { t with inputs := [], response := none, taken := r :: t.taken } := by
    simp [step, hi, State.withInputs, State.takeResponse, ht]
  simp [transact, first, second]

@[simp] theorem issue_nil (s : State) : issue [] s = some ([], s) := rfl

theorem issue_cons (i : Instr) (rest : List Instr) (s : State) :
    issue (i :: rest) s = (transact (encode i) s).bind fun p => (issue rest p.2).map fun q => (p.1 :: q.1, q.2) := by
  rw [issue]
  cases transact (encode i) s with
  | none => rfl
  | some p => cases h : issue rest p.2 <;> simp [h]

/-- Two sequences of commands, one after the other. -/
theorem issue_append (before after : List Instr) (s : State) :
    issue (before ++ after) s = (issue before s).bind fun p => (issue after p.2).map fun q => (p.1 ++ q.1, q.2) := by
  induction before generalizing s with
  | nil => simp
  | cons i rest ih =>
    rw [List.cons_append, issue_cons, issue_cons]
    cases transact (encode i) s with
    | none => rfl
    | some p =>
      simp only [Option.bind_some, ih]
      cases issue rest p.2 with
      | none => rfl
      | some q => simp [Function.comp_def]

/-! ### Failures of parseAddress (48_host_software.md R111, R116) -/

/-- All the raw path can do: `encodeFriendly` stopped, refused the text, or left a text that is decoded. -/
theorem rawPath_cases (input : List Char) (testnetFlag : Bool) (s : State) :
    (encodeFriendly input true testnetFlag s = none ∧ rawPath input testnetFlag s = none) ∨
    (∃ e t, encodeFriendly input true testnetFlag s = some (.error e, t) ∧
      rawPath input testnetFlag s = some (.error .malformedInput, t)) ∨
    (∃ text t, encodeFriendly input true testnetFlag s = some (.ok text, t) ∧
      rawPath input testnetFlag s = decodeAndBuild true t) := by
  unfold rawPath
  match encodeFriendly input true testnetFlag s with
  | none => exact .inl ⟨rfl, rfl⟩
  | some (.error e, t) => exact .inr (.inl ⟨e, t, rfl, rfl⟩)
  | some (.ok text, t) => exact .inr (.inr ⟨text, t, rfl, rfl⟩)

end Sys2Proof.Machine
end

