-- ==== Sys2Proof/Laws/PerInstr.lean ====
section
/-! SUPPORT. The family `EncodeInRow`, one lemma per command: the word of a command that can be spelled matches the
command's row of the mask and match table (spec/30_encoding.md R41). -/

namespace Sys2Proof.Laws

/-- The word of the command matches its row. -/
def EncodeInRow.Statement (i : Instr) : Prop :=
  i.wellFormed = true → (rowOf i).matches (encode i) = true

/-- A word of given fields matches a row of given mask and pattern fields when each field does. -/
theorem c64_matches {op a b z mo ma mb mz po pa pb pz : Byte} {imm mi pi : Word32}
    (h : op &&& mo = po ∧ a &&& ma = pa ∧ b &&& mb = pb ∧ z &&& mz = pz ∧ imm &&& mi = pi) :
    Row.matches ⟨c64 mo ma mb mz mi, c64 po pa pb pz pi⟩ (c64 op a b z imm) = true := by
  obtain ⟨rfl, rfl, rfl, rfl, rfl⟩ := h
  simp [Row.matches, c64_and]

theorem EncodeInRow.nop : EncodeInRow.Statement .nop :=
  fun _ => c64_matches (mo := 0xff) (ma := 0xff) (mb := 0xff) (mz := 0xff) (mi := 0xffffffff)
    (po := 0x0) (pa := 0) (pb := 0) (pz := 0) (pi := 0) ⟨by decide, by simp, by simp, by decide, by simp⟩

theorem EncodeInRow.rdr (reg : Byte) : EncodeInRow.Statement (.rdr reg) :=
  fun _ => c64_matches (mo := 0xff) (ma := 0x0) (mb := 0xff) (mz := 0xff) (mi := 0xffffffff)
    (po := 0x1) (pa := 0) (pb := 0) (pz := 0) (pi := 0) ⟨by decide, by simp, by simp, by decide, by simp⟩

theorem EncodeInRow.wrb (idx : Byte) (val : Byte) : EncodeInRow.Statement (.wrb idx val) :=
  fun _ => c64_matches (mo := 0xff) (ma := 0x0) (mb := 0x0) (mz := 0xff) (mi := 0xffffffff)
    (po := 0x10) (pa := 0) (pb := 0) (pz := 0) (pi := 0) ⟨by decide, by simp, by simp, by decide, by simp⟩

theorem EncodeInRow.rdb (idx : Byte) : EncodeInRow.Statement (.rdb idx) :=
  fun _ => c64_matches (mo := 0xff) (ma := 0x0) (mb := 0xff) (mz := 0xff) (mi := 0xffffffff)
    (po := 0x11) (pa := 0) (pb := 0) (pz := 0) (pi := 0) ⟨by decide, by simp, by simp, by decide, by simp⟩

theorem EncodeInRow.wrt (idx : Byte) (val : Byte) : EncodeInRow.Statement (.wrt idx val) :=
  fun _ => c64_matches (mo := 0xff) (ma := 0x0) (mb := 0x0) (mz := 0xff) (mi := 0xffffffff)
    (po := 0x12) (pa := 0) (pb := 0) (pz := 0) (pi := 0) ⟨by decide, by simp, by simp, by decide, by simp⟩

theorem EncodeInRow.rdt (idx : Byte) : EncodeInRow.Statement (.rdt idx) :=
  fun _ => c64_matches (mo := 0xff) (ma := 0x0) (mb := 0xff) (mz := 0xff) (mi := 0xffffffff)
    (po := 0x13) (pa := 0) (pb := 0) (pz := 0) (pi := 0) ⟨by decide, by simp, by simp, by decide, by simp⟩

theorem EncodeInRow.setlen (len : Byte) : EncodeInRow.Statement (.setlen len) :=
  fun _ => c64_matches (mo := 0xff) (ma := 0x0) (mb := 0xff) (mz := 0xff) (mi := 0xffffffff)
    (po := 0x14) (pa := 0) (pb := 0) (pz := 0) (pi := 0) ⟨by decide, by simp, by simp, by decide, by simp⟩

theorem EncodeInRow.crcclr : EncodeInRow.Statement .crcclr :=
  fun _ => c64_matches (mo := 0xff) (ma := 0xff) (mb := 0xff) (mz := 0xff) (mi := 0xffffffff)
    (po := 0x20) (pa := 0) (pb := 0) (pz := 0) (pi := 0) ⟨by decide, by simp, by simp, by decide, by simp⟩

theorem EncodeInRow.crcput (val : Byte) : EncodeInRow.Statement (.crcput val) :=
  fun _ => c64_matches (mo := 0xff) (ma := 0xff) (mb := 0x0) (mz := 0xff) (mi := 0xffffffff)
    (po := 0x21) (pa := 0) (pb := 0) (pz := 0) (pi := 0) ⟨by decide, by simp, by simp, by decide, by simp⟩

theorem EncodeInRow.crcfin : EncodeInRow.Statement .crcfin :=
  fun _ => c64_matches (mo := 0xff) (ma := 0xff) (mb := 0xff) (mz := 0xff) (mi := 0xffffffff)
    (po := 0x22) (pa := 0) (pb := 0) (pz := 0) (pi := 0) ⟨by decide, by simp, by simp, by decide, by simp⟩

theorem EncodeInRow.pack (flg : Byte) (wc : Word32) : EncodeInRow.Statement (.pack flg wc) :=
  fun hw => c64_matches (mo := 0xff) (ma := 0xfc) (mb := 0xff) (mz := 0xff) (mi := 0x0)
    (po := 0x30) (pa := 0) (pb := 0) (pz := 0) (pi := 0) ⟨by decide, by simpa [Instr.wellFormed, flagsLegal] using hw, by simp, by decide, by simp⟩

theorem EncodeInRow.check : EncodeInRow.Statement .check :=
  fun _ => c64_matches (mo := 0xff) (ma := 0xff) (mb := 0xff) (mz := 0xff) (mi := 0xffffffff)
    (po := 0x31) (pa := 0) (pb := 0) (pz := 0) (pi := 0) ⟨by decide, by simp, by simp, by decide, by simp⟩

theorem EncodeInRow.b64enc : EncodeInRow.Statement .b64enc :=
  fun _ => c64_matches (mo := 0xff) (ma := 0xff) (mb := 0xff) (mz := 0xff) (mi := 0xffffffff)
    (po := 0x40) (pa := 0) (pb := 0) (pz := 0) (pi := 0) ⟨by decide, by simp, by simp, by decide, by simp⟩

theorem EncodeInRow.b64dec : EncodeInRow.Statement .b64dec :=
  fun _ => c64_matches (mo := 0xff) (ma := 0xff) (mb := 0xff) (mz := 0xff) (mi := 0xffffffff)
    (po := 0x41) (pa := 0) (pb := 0) (pz := 0) (pi := 0) ⟨by decide, by simp, by simp, by decide, by simp⟩

theorem EncodeInRow.encode (flg : Byte) (wc : Word32) : EncodeInRow.Statement (.encode flg wc) :=
  fun hw => c64_matches (mo := 0xff) (ma := 0xfc) (mb := 0xff) (mz := 0xff) (mi := 0x0)
    (po := 0x50) (pa := 0) (pb := 0) (pz := 0) (pi := 0) ⟨by decide, by simpa [Instr.wellFormed, flagsLegal] using hw, by simp, by decide, by simp⟩

theorem EncodeInRow.decode : EncodeInRow.Statement .decode :=
  fun _ => c64_matches (mo := 0xff) (ma := 0xff) (mb := 0xff) (mz := 0xff) (mi := 0xffffffff)
    (po := 0x51) (pa := 0) (pb := 0) (pz := 0) (pi := 0) ⟨by decide, by simp, by simp, by decide, by simp⟩

end Sys2Proof.Laws
end

