-- ==== Sys2Proof/Tests/Slice0.lean ====
section
/-! SUPPORT. Tests. The words are written out from the fields of spec/30_encoding.md R40 to R44; the expected values
are those of spec/95_test_vectors.md (section numbers below) and spec/96_more_vectors.md. The `witness_` theorems show,
for each statement that has hypotheses, concrete states and operands that meet them, at the boundaries of the ranges. -/

namespace Sys2Proof.Tests

open Sys2Proof Sys2Proof.Machine

/-! ### Small states -/

/-- The account identifier "ramp" of the vectors. -/
def ramp : List Byte := (List.range 32).map (BitVec.ofNat 8)

/-- A machine with the given `BUF`, a `TXT` that starts with the given codes, and the `TLEN`. -/
def machine (record text : List Byte) (tlen : BitVec 7) : State :=
  { State.init (fun a => record.getD a 0xAA#8) (fun a => text.getD a 0x55#8) with tlen := tlen, crc := 0x1234#16 }

/-- The start of section 2.6: `BUF` 36 times `AA`, `TXT` 64 times `55`, `TLEN` 7. -/
def drawn : State := machine [] [] 7#7

/-- `BUF[2..34)` = ramp. -/
def withRamp : State := machine ([0xAA#8, 0xAA#8] ++ ramp) [] 0#7

/-- A machine that holds the record `11 00` ramp `1D A3`. -/
def valid : State := machine ([0x11#8, 0x00#8] ++ ramp ++ [0x1D#8, 0xA3#8]) [] 0#7

/-- `EQAAAQIDBAUGBwgJCgsMDQ4PEBESExQVFhcYGRobHB0eHx2j`. -/
def rampText : List Byte :=
  ['E', 'Q', 'A', 'A', 'A', 'Q', 'I', 'D', 'B', 'A', 'U', 'G', 'B', 'w', 'g', 'J', 'C', 'g', 's', 'M', 'D', 'Q', '4', 'P',
    'E', 'B', 'E', 'S', 'E', 'x', 'Q', 'V', 'F', 'h', 'c', 'Y', 'G', 'R', 'o', 'b', 'H', 'B', '0', 'e', 'H', 'x', '2',
    'j'].map fun c => BitVec.ofNat 8 c.toNat

/-- A machine that holds that text, 48 in `TLEN`. -/
def withText : State := machine [] rampText 48#7

/-- 48 characters, the last of them `=`. -/
def withInvalid : State := machine [] (List.replicate 47 0x41#8 ++ [0x3D#8]) 48#7

/-- The next step of a machine to which the host presents a word. -/
def run (w : CommandWord) (s : State) : Option State :=
  match step { s with inputs := [.command w] } with
  | .next t => some t
  | _ => none

/-- The response word of that step. -/
def answer (w : CommandWord) (s : State) : Option ResponseWord := (run w s).bind (·.response)

/-! ### WellFormed: one ill-formed term for each check -/

theorem test_wellFormed_pack_flags : (Instr.pack 0x04 0).wellFormed = false ∧ (Instr.pack 0x03 0).wellFormed = true := by
  decide

theorem test_wellFormed_encode_flags :
    (Instr.encode 0x80 0).wellFormed = false ∧ (Instr.encode 0x03 0).wellFormed = true := by decide

/-! ### Decode: a word of every command, and the refusals by name -/

theorem test_decode_system :
    decode 0x0000000000000000#64 = .ok .nop ∧ decode 0x0104000000000000#64 = .ok (.rdr 0x04) := by decide

theorem test_decode_buffer :
    decode 0x1002830000000000#64 = .ok (.wrb 0x02 0x83) ∧ decode 0x1122000000000000#64 = .ok (.rdb 0x22) ∧
    decode 0x1200450000000000#64 = .ok (.wrt 0x00 0x45) ∧ decode 0x132F000000000000#64 = .ok (.rdt 0x2F) ∧
    decode 0x1430000000000000#64 = .ok (.setlen 0x30) := by decide

theorem test_decode_crc :
    decode 0x2000000000000000#64 = .ok .crcclr ∧ decode 0x2100410000000000#64 = .ok (.crcput 0x41) ∧
    decode 0x2200000000000000#64 = .ok .crcfin := by decide

theorem test_decode_record :
    decode 0x30010000FFFFFFFF#64 = .ok (.pack 0x01 0xFFFFFFFF) ∧ decode 0x3100000000000000#64 = .ok .check := by decide

theorem test_decode_base64 :
    decode 0x4000000000000000#64 = .ok .b64enc ∧ decode 0x4100000000000000#64 = .ok .b64dec := by decide

theorem test_decode_codec :
    decode 0x50020000000000FE#64 = .ok (.encode 0x02 0xFE) ∧ decode 0x5100000000000000#64 = .ok .decode := by decide

/-- Section 2.8: ten illegal words, each with the field that makes it so. -/
theorem test_decode_illegal :
    decode 0x0000000000000001#64 = .error .unusedImm ∧ decode 0x0200000000000000#64 = .error .unknownOpcode ∧
    decode 0xFFFFFFFFFFFFFFFF#64 = .error .reservedZ ∧ decode 0x0100010000000000#64 = .error .unusedB ∧
    decode 0x1002830100000000#64 = .error .reservedZ ∧ decode 0x2100410000000100#64 = .error .unusedImm ∧
    decode 0x3004000000000000#64 = .error .reservedFlags ∧ decode 0x30FF0000000000FF#64 = .error .reservedFlags ∧
    decode 0x3100000000000001#64 = .error .unusedImm ∧ decode 0x1024000100000000#64 = .error .reservedZ := by decide

theorem test_decode_unusedA : decode 0x2101410000000000#64 = .error .unusedA := by decide

theorem test_decodeTableWord :
    decodeTableWord 64 0x3003000000000005 = some (.pack 0x03 5) ∧ decodeTableWord 64 0x0200000000000000 = none := by
  decide

/-! ### Tables and functions (sections 2.1 to 2.3) -/

theorem test_crcBit :
    crcBit 0x7FFF true = 0xFFFF ∧ crcBit 0x8000 false = 0x1021 ∧ crcBit 0x8810 false = 0x0001 ∧
    crcBit 0xFFFF true = 0xEFDE ∧ crcBit 0x1234 true = 0x2469 := by decide

theorem test_crcByte :
    crcByte 0x4100 0x00 = 0x58E5 ∧ crcByte 0x58E5 0x42 = 0x3EBF ∧ crcByte 0xFFFF 0xFF = 0xE10F ∧
    crcByte 0xA915 0x00 = 0x31C3 := by decide

set_option maxRecDepth 100000 in
theorem test_crc16 :
    crc16 [] = 0x0000 ∧ crc16 [0x41, 0x42] = 0x567B ∧
    crc16 [0x31, 0x32, 0x33, 0x34, 0x35, 0x36, 0x37, 0x38, 0x39] = 0x31C3 := by decide

theorem test_b64chr :
    b64chr 0 = 0x41 ∧ b64chr 25 = 0x5A ∧ b64chr 26 = 0x61 ∧ b64chr 51 = 0x7A ∧ b64chr 52 = 0x30 ∧ b64chr 61 = 0x39 ∧
    b64chr 62 = 0x2D ∧ b64chr 63 = 0x5F := by decide

theorem test_b64val :
    b64val 0x2B = some 62 ∧ b64val 0x2D = some 62 ∧ b64val 0x2F = some 63 ∧ b64val 0x5F = some 63 ∧
    b64val 0x3D = none ∧ b64val 0x40 = none ∧ b64val 0x5B = none ∧ b64val 0x60 = none ∧ b64val 0x7B = none ∧
    b64val 0x3A = none := by decide

/-! ### One step of each command -/

theorem test_nop : answer 0x0000000000000000#64 drawn = some 0#64 := by decide

theorem test_rdr : answer 0x0101000000000000#64 drawn = some 0x1234#64 ∧
    answer 0x0105000000000000#64 drawn = some 0x0000000200000000#64 := by decide

theorem test_wrb : (run 0x10235C0000000000#64 drawn).bind (·.readByte .record 35) = some 0x5C ∧
    answer 0x1024000000000000#64 drawn = some 0x0000000200000000#64 := by decide

theorem test_rdb : answer 0x1101000000000000#64 drawn = some 0xAA#64 ∧
    answer 0x1124000000000000#64 drawn = some 0x0000000200000000#64 := by decide

theorem test_wrt : (run 0x123F7A0000000000#64 drawn).bind (·.readByte .text 63) = some 0x7A ∧
    answer 0x1240410000000000#64 drawn = some 0x0000000200000000#64 := by decide

theorem test_rdt : answer 0x133F000000000000#64 drawn = some 0x55#64 ∧
    answer 0x1340000000000000#64 drawn = some 0x0000000200000000#64 := by decide

theorem test_setlen : (run 0x1440000000000000#64 drawn).map (·.tlen) = some 64#7 ∧
    (run 0x1441000000000000#64 drawn).map (·.tlen) = some 7#7 := by decide

theorem test_crcclr : (run 0x2000000000000000#64 drawn).map (·.crc) = some 0x0000#16 := by decide

theorem test_crcput :
    (run 0x2100420000000000#64 { drawn with crc := 0x58E5#16 }).map (·.crc) = some 0x3EBF#16 := by decide

theorem test_crcfin :
    (run 0x2200000000000000#64 { drawn with crc := 0x0041#16 }).map (·.crc) = some 0x58E5#16 := by decide

set_option maxRecDepth 100000 in
/-- Section 2.2: `PACK 254, B, M` around ramp. -/
theorem test_pack :
    (run 0x30010000000000FE#64 withRamp).map (fun t => (t.crc, t.readByte .record 1, t.readByte .record 34)) =
      some (0x6F37#16, some 0xFE#8, some 0x6F#8) := by decide

/-- Section 2.2: workchain 255 is refused and writes nothing. -/
theorem test_pack_workchain :
    (run 0x30010000000000FF#64 withRamp).map (fun t => (t.response, t.crc, t.readByte .record 0)) =
      some (some 0x0000000300000000#64, 0x1234#16, some 0xAA#8) := by decide

set_option maxRecDepth 100000 in
/-- Section 1, S1: tag `0x11`. -/
theorem test_check : (run 0x3100000000000000#64 valid).map (fun t => (t.response, t.status, t.crc)) =
    some (some 0x0000000000000000#64, 0x03#8, 0x1DA3#16) := by decide

set_option maxRecDepth 100000 in
/-- Section 2.4: 36 bytes `FF` have the checksum `0x2D0C`. -/
theorem test_check_mismatch :
    (run 0x3100000000000000#64 (machine (List.replicate 36 0xFF#8) [] 0#7)).map (fun t => (t.response, t.status, t.crc)) =
      some (some 0x0000000600000000#64, 0x00#8, 0x2D0C#16) := by decide

set_option maxRecDepth 100000 in
theorem test_b64enc : (run 0x4000000000000000#64 valid).map (fun t => (t.tlen, t.txt.slice 0 48)) =
    some (48#7, some rampText) := by decide

set_option maxRecDepth 100000 in
theorem test_b64dec : (run 0x4100000000000000#64 withText).map (·.buf) = some valid.buf := by decide

set_option maxRecDepth 100000 in
theorem test_b64dec_failures :
    answer 0x4100000000000000#64 withInvalid = some 0x0000000500000000#64 ∧
    answer 0x4100000000000000#64 { withText with tlen := 49#7 } = some 0x0000000400000000#64 := by decide

set_option maxRecDepth 100000 in
theorem test_encode : (run 0x5001000000000000#64 withRamp).map (fun t => (t.crc, t.txt.slice 0 48)) =
    some (0x1DA3#16, some rampText) := by decide

set_option maxRecDepth 100000 in
theorem test_decode_command : (run 0x5100000000000000#64 withText).map (fun t => (t.response, t.status, t.tag)) =
    some (some 0x0000000000000000#64, 0x03#8, 0x11#8) := by decide

/-- Section 2.5: a text of the wrong length clears the result registers and writes nothing else. -/
theorem test_decode_command_length :
    (run 0x5100000000000000#64 { drawn with status := 0x03#8, tag := 0x11#8 }).map
      (fun t => (t.response, t.status, t.tag, t.crc)) =
      some (some 0x0000000400000000#64, 0x00#8, 0x00#8, 0x1234#16) := by decide

/-! ### The port and reset -/

theorem test_illegal_word : (run 0x30040000000000FF#64 drawn).map (fun t => (t.response, t.crc)) =
    some (some 0x0000000100000000#64, 0x1234#16) := by decide

theorem test_command_before_response :
    step { drawn with inputs := [.command 0#64], response := some 0#64 } =
      .refused .commandBeforeResponse := rfl

/-- The first command after reset, whatever the buffers hold. -/
theorem test_first_command (b x : Nat → Byte) :
    step ((State.init b x).withFetchWord 64 0x2100410000000000) =
      .next { State.init b x with crc := 0x0041#16, response := some 0#64 } := by
  have h : decode (tableWord 64 0x2100410000000000) = .ok (.crcput 0x41) := by decide
  have hc : crcByte Config.crcInit 0x41#8 = 0x0041#16 := by decide
  simp [step, State.withFetchWord, acceptCommand, runWord, h, exec, execCrcput, State.withInputs, State.setCrc,
    State.answer, State.init, hc]

/-! ### Witnesses -/

/-- The next state of an outcome. -/
def nextOf (o : Host.Outcome State Fault Refusal) : Option State :=
  match o with
  | .next t => some t
  | _ => none

/-- An outcome with a next state of which something is known. -/
theorem reaches {α : Type} {o : Host.Outcome State Fault Refusal} (f : State → α) {v : α}
    (h : (nextOf o).map f = some v) : ∃ t, o = .next t ∧ f t = v := by
  cases o with
  | next t => exact ⟨t, rfl, by simpa [nextOf] using h⟩
  | _ => simp [nextOf] at h

/-- Every character of the text is valid. -/
theorem no_invalid {s : State} (h : ∀ i < 48, ((s.readByte .text i).bind b64val).isSome) : ¬ TextHasInvalid s := by
  rintro ⟨i, c, hi, hc, hv⟩
  simpa [hc, hv] using h i hi

/-- The next input of the machine is the given one. -/
def presenting (i : HostInput) (s : State) : State := { s with inputs := [i] }

theorem witness_DecodeOfEncodeIsTheCommand : (Instr.pack 0x03 0xFFFFFFFF).wellFormed = true := by decide

theorem witness_EveryDecodedWordIsTheCommandsOwn : decode 0x50010000000000FE#64 = .ok (.encode 0x01 0xFE) := by decide

theorem witness_DecodeAcceptsExactlyTheTable :
    decode 0x2100410000000000#64 = .ok (.crcput 0x41) := by decide

theorem witness_IllegalWordChangesNothing :
    let r := rowOf (.crcput 0)
    (r ∈ opTable ∧ 0x2100410000000000#64 &&& r.mask = r.pattern) ∧
      (¬ ∃ r ∈ opTable, 0x0200000000000000#64 &&& r.mask = r.pattern) := by decide

theorem witness_StepRunsTheDecodedCommand :
    let s := presenting (.command 0x2000000000000000#64) drawn
    let s' := presenting (.command 0x2000000000000001#64) drawn
    (s.inputs = .command 0x2000000000000000#64 :: [] ∧ s.resetLine = false ∧ s.response = none ∧
      decode 0x2000000000000000#64 = .ok .crcclr) ∧
    (s'.inputs = .command 0x2000000000000001#64 :: [] ∧ s'.resetLine = false ∧ s'.response = none ∧
      decode 0x2000000000000001#64 = .error .unusedImm) := by decide

theorem witness_UntimelyCommandIsRefused :
    let s := presenting (.command 0x0000000000000000#64) drawn.assertReset
    let s' := presenting (.command 0x0000000000000000#64) (drawn.respond 0)
    (s.inputs = .command 0#64 :: [] ∧ s.resetLine = true) ∧
    (s'.inputs = .command 0#64 :: [] ∧ s'.resetLine = false ∧ s'.response = some 0#64) := by decide

theorem witness_ResponseIsTakenOnce :
    let s := presenting .takeResponse (drawn.respond 7)
    s.inputs = .takeResponse :: [] ∧ s.response = some 7#64 := by decide

theorem witness_ResetLeavesTheResetState :
    let s := { drawn with inputs := [.assertReset, .releaseReset] }
    s.inputs = .assertReset :: .releaseReset :: [] := by decide

theorem witness_NopChangesNothing : fieldOp 0x0000000000000001#64 = 0x00#8 ∧ 0x0000000000000001#64 ≠ 0#64 := by decide

theorem witness_WrbWritesOneRecordByte :
    (0x23#8).toNat ≤ 35 ∧ (0x00#8).toNat ≤ 35 ∧ 36 ≤ (0x24#8).toNat ∧ 36 ≤ (0xFF#8).toNat := by decide

theorem witness_RdbAnswersOneRecordByte :
    (0x23#8).toNat ≤ 35 ∧ (0x00#8).toNat ≤ 35 ∧ 36 ≤ (0x24#8).toNat ∧ 36 ≤ (0xFF#8).toNat := by decide

theorem witness_WrtWritesOneCharacter :
    (0x3F#8).toNat ≤ 63 ∧ (0x00#8).toNat ≤ 63 ∧ 64 ≤ (0x40#8).toNat ∧ 64 ≤ (0xFF#8).toNat := by decide

theorem witness_RdtAnswersOneCharacter :
    (0x3F#8).toNat ≤ 63 ∧ (0x00#8).toNat ≤ 63 ∧ 64 ≤ (0x40#8).toNat ∧ 64 ≤ (0xFF#8).toNat := by decide

theorem witness_SetlenSetsTheLength :
    (0x00#8).toNat ≤ 64 ∧ (0x40#8).toNat ≤ 64 ∧ 65 ≤ (0x41#8).toNat ∧ 65 ≤ (0xFF#8).toNat := by decide

theorem witness_SingleBitErrorsChangeTheChecksum :
    0 < [0x41#8, 0x42#8].length ∧ 1 < [0x41#8, 0x42#8].length ∧ 0 < 8 ∧ 7 < 8 := by decide

/-- A stream of one byte with a failing `DECODE` before it and a `NOP` after it. -/
theorem witness_StreamedChecksumIsCrc16 :
    ∃ s₁ s₂ s₃, exec .crcclr drawn = .next s₁ ∧ Stream [0x41#8] s₁ s₂ ∧ exec .crcfin s₂ = .next s₃ := by
  obtain ⟨s₁, h₁, hl⟩ := reaches (o := exec .crcclr drawn) (·.tlen) (v := 7#7) (by decide)
  have hn : s₁.tlen ≠ 48#7 := by rw [hl]; decide
  have hd : exec .decode s₁ = .next (s₁.clearResult.fail .length) := by
    simp [exec, execDecode, decodeTextBody, b64decBody, hl, Ended.andThen_failed, State.fail]
  refine ⟨s₁, _, _, h₁, .other .decode _ _ _ _ (.inl hn) hd
    (.put _ _ _ _ _ rfl (.other .nop _ _ _ _ trivial rfl (.here _))), rfl⟩

theorem witness_PackBuildsTheRecord :
    (0x03#8 &&& 0xFC#8 = 0#8) ∧ LegalWc 0xFFFFFFFF#32 ∧ LegalWc 0x00000000#32 ∧ LegalWc 0x000000FE#32 ∧
      ramp.length = 32 ∧ withRamp.holds .record 2 ramp ∧ ¬ LegalWc 0x000000FF#32 ∧ ¬ LegalWc 0xFFFFFFFE#32 := by decide

theorem witness_WorkchainRangeIsChecked :
    LegalWc 0xFFFFFFFF#32 ∧ LegalWc 0x00000000#32 ∧ LegalWc 0x000000FE#32 ∧
      ¬ LegalWc 0x000000FF#32 ∧ ¬ LegalWc 0xFFFFFFFE#32 ∧ ¬ LegalWc 0x80000000#32 := by decide

set_option maxRecDepth 100000 in
theorem witness_CheckAcceptsWhatPackBuilt :
    LegalWc 0xFFFFFFFF#32 ∧ ∃ t, exec (.pack 0x01 0xFFFFFFFF) withRamp = .next t ∧ t.crc = 0xE2EB#16 :=
  ⟨by decide, reaches (·.crc) (by decide)⟩

set_option maxRecDepth 100000 in
theorem witness_LastPackWins :
    LegalWc 0xFFFFFFFF#32 ∧ LegalWc 0x000000FE#32 ∧
      ∃ t, exec (.pack 0x01 0xFFFFFFFF) withRamp = .next t ∧ t.crc = 0xE2EB#16 :=
  ⟨by decide, by decide, reaches (·.crc) (by decide)⟩

theorem witness_WorkchainByteRoundTrip :
    LegalWc 0xFFFFFFFF#32 ∧ LegalWc 0x00000000#32 ∧ LegalWc 0x000000FE#32 := by decide

theorem witness_EncodedTextIsUrlSafe : ∃ t, exec .b64enc valid = .next t ∧ t.tlen = 48#7 :=
  reaches (·.tlen) (by decide)

/-- The three cases: a wrong length on either side of 48, an invalid character at the last index, a whole text. -/
theorem witness_B64decReplacesTheRecordOrNothing :
    (machine [] [] 47#7).tlen ≠ 48#7 ∧ (machine [] [] 49#7).tlen ≠ 48#7 ∧
    (withInvalid.tlen = 48#7 ∧ TextHasInvalid withInvalid) ∧
    (withText.tlen = 48#7 ∧ ¬ TextHasInvalid withText) :=
  ⟨by decide, by decide, ⟨by decide, 47, 0x3D#8, by decide, by decide, by decide⟩, by decide, no_invalid (by decide)⟩

theorem witness_DecodeThenEncodeNormalisesTheText :
    let s := machine [] (List.replicate 24 0x2B#8 ++ List.replicate 24 0x2F#8) 48#7
    s.tlen = 48#7 ∧ ¬ TextHasInvalid s ∧ s.readByte .text 23 = some 0x2B#8 ∧ s.readByte .text 24 = some 0x2F#8 :=
  ⟨by decide, no_invalid (by decide), by decide, by decide⟩

set_option maxRecDepth 100000 in
theorem witness_EncodingIsInjective :
    ∃ t t', exec .b64enc valid = .next t ∧
      exec .b64enc { valid with tlen := 9#7 } = .next t' ∧ (∀ a, a < 48 → t.readByte .text a = t'.readByte .text a) := by
  obtain ⟨t, h, e⟩ := reaches (o := exec .b64enc valid) (fun t => t.txt) (v := (machine [] rampText 48#7).txt) (by decide)
  obtain ⟨t', h', e'⟩ := reaches (o := exec .b64enc { valid with tlen := 9#7 }) (fun t => t.txt)
    (v := (machine [] rampText 48#7).txt) (by decide)
  exact ⟨t, t', h, h', fun a _ => by simp only [State.readByte, State.mem, e, e']⟩

theorem witness_CheckPublishesOrClears :
    let bytes := [0x11#8, 0x00#8] ++ ramp ++ [0x1D#8, 0xA3#8]
    let bad := List.replicate 36 0xFF#8
    (bytes.length = 36 ∧ valid.holds .record 0 bytes) ∧
    (bad.length = 36 ∧ (machine bad [] 0#7).holds .record 0 bad) := by decide

set_option maxRecDepth 100000 in
theorem witness_OneFlippedBitFailsTheCheck :
    (∃ t, exec .check valid = .next t ∧ t.response = some 0x0000000000000000#64) ∧
      valid.readByte .record (0x23#8).toNat = some 0xA3#8 ∧ valid.readByte .record (0x00#8).toNat = some 0x11#8 ∧ 7 < 8 :=
  ⟨reaches (·.response) (by decide), by decide, by decide, by decide⟩

theorem witness_EncodeBuildsTheRecordAndItsText :
    (0x03#8 &&& 0xFC#8 = 0#8) ∧ LegalWc 0xFFFFFFFF#32 ∧ LegalWc 0x00000000#32 ∧ LegalWc 0x000000FE#32 ∧
      ramp.length = 32 ∧ withRamp.holds .record 2 ramp ∧ ¬ LegalWc 0x000000FF#32 ∧ ¬ LegalWc 0xFFFFFFFE#32 := by decide

theorem witness_DecodeReadsTheTextThenChecks :
    (machine [] [] 47#7).tlen ≠ 48#7 ∧ (machine [] [] 49#7).tlen ≠ 48#7 ∧
    (withInvalid.tlen = 48#7 ∧ TextHasInvalid withInvalid) ∧
    (withText.tlen = 48#7 ∧ ¬ TextHasInvalid withText) :=
  ⟨by decide, by decide, ⟨by decide, 47, 0x3D#8, by decide, by decide, by decide⟩, by decide, no_invalid (by decide)⟩

set_option maxRecDepth 100000 in
theorem witness_CompositesAreTheirParts :
    (LegalWc 0x000000FE#32 ∧ ¬ LegalWc 0x000000FF#32) ∧
    (∃ t, exec .b64dec withText = .next t ∧ t.response = some 0x0000000000000000#64) ∧
    (∃ t, exec .b64dec withInvalid = .next t ∧ t.response ≠ some 0x0000000000000000#64) := by
  refine ⟨by decide, reaches (·.response) (by decide), ?_⟩
  obtain ⟨t, h, e⟩ := reaches (o := exec .b64dec withInvalid) (·.response) (v := some 0x0000000500000000#64) (by decide)
  exact ⟨t, h, by rw [e]; decide⟩

theorem witness_DecodeGivesBackWhatEncodeTook :
    LegalWc 0xFFFFFFFF#32 ∧ LegalWc 0x00000000#32 ∧ LegalWc 0x000000FE#32 ∧
      (∀ i ∈ [Instr.nop, .wrb 0x02 0xEE, .check, .decode], LeavesText i) :=
  ⟨by decide, by decide, by decide, by simp [LeavesText]⟩

theorem witness_EveryResponseHasItsForm : ∃ t, exec (.rdr 0x01) drawn = .next t ∧ t.response = some 0x1234#64 :=
  reaches (·.response) (by decide)

theorem witness_FailureCodesAreThoseOfTheCommand :
    ∃ t, exec (.setlen 0x41) drawn = .next t ∧ t.response = some 0x0000000200000000#64 := reaches (·.response) (by decide)

theorem witness_FailuresAreReportedInOrder :
    (¬ ∃ i, decode 0x1024000100000000#64 = .ok i) ∧ (0xFF#8 &&& 0xFC#8 ≠ 0#8) ∧ drawn.tlen ≠ 48#7 ∧
      (withInvalid.tlen = 48#7 ∧ TextHasInvalid withInvalid) := by
  refine ⟨?_, by decide, by decide, by decide, 47, 0x3D#8, by decide, by decide, by decide⟩
  rintro ⟨i, h⟩
  have e : decode 0x1024000100000000#64 = .error .reservedZ := by decide
  rw [e] at h
  cases h

/-- A machine whose text is that of a record with a wrong checksum. -/
def withBadSum : State := machine [] (List.replicate 47 0x41#8 ++ [0x42#8]) 48#7

set_option maxRecDepth 100000 in
/-- Every way to fail: a word, an index, a workchain, a text, a character, a checksum. -/
theorem witness_FailingCommandsLeaveExactlyThis :
    decode 0x3004000000000000#64 = .error .reservedFlags ∧
    (∃ t, exec (.wrb 0x24 0) drawn = .next t ∧ t.response = some 0x0000000200000000#64) ∧
    (∃ t, exec (.encode 0 0xFF) drawn = .next t ∧ t.response = some 0x0000000300000000#64) ∧
    (∃ t, exec .b64dec drawn = .next t ∧ t.response = some 0x0000000400000000#64) ∧
    (∃ t, exec .decode drawn = .next t ∧ t.response = some 0x0000000400000000#64) ∧
    (∃ t, exec .decode withInvalid = .next t ∧ t.response = some 0x0000000500000000#64) ∧
    (∃ t, exec .check drawn = .next t ∧ t.response = some 0x0000000600000000#64) ∧
    (∃ t, exec .decode withBadSum = .next t ∧ t.response = some 0x0000000600000000#64) :=
  ⟨by decide, reaches (·.response) (by decide), reaches (·.response) (by decide), reaches (·.response) (by decide),
    reaches (·.response) (by decide), reaches (·.response) (by decide), reaches (·.response) (by decide),
    reaches (·.response) (by decide)⟩

set_option maxRecDepth 100000 in
theorem witness_NoFailureIsRemembered :
    (∃ t, exec .check drawn = .next t ∧ t.response = some 0x0000000600000000#64) ∧
      responseErr 0x0000000600000000#64 ≠ 0x00#8 :=
  ⟨reaches (·.response) (by decide), by decide⟩

theorem witness_ElementsAreWrittenOnlyByTheNamedCommands :
    (∃ t, exec .nop drawn = .next t ∧ t.crc = 0x1234#16) ∧
      (∀ x v, Instr.nop ≠ .wrb x v) ∧ (∀ x v, Instr.nop ≠ .wrt x v) ∧ (∀ n, Instr.nop ≠ .setlen n) ∧
      (∀ v, Instr.nop ≠ .crcput v) ∧ (∀ f w, Instr.nop ≠ .pack f w) ∧ (∀ f w, Instr.nop ≠ .encode f w) :=
  ⟨reaches (·.crc) (by decide), by simp⟩

set_option maxRecDepth 100000 in
/-- For every command with an input: two machines that agree on it and on little else. -/
theorem witness_CommandsReadOnlyTheirInputs :
    let s := { withText with buf := withRamp.buf, status := 0x03#8 }
    let v := { valid with txt := withText.txt, tlen := 48#7, status := 0x07#8, tag := 0x91#8 }
    (SameInputs (.encode 0x01 0) withRamp s ∧ SameInputs (.pack 0x01 0) withRamp s ∧
      SameInputs (.rdb 0x23) withRamp s ∧ SameInputs (.crcput 0x41) withRamp s ∧ SameInputs .crcfin withRamp s ∧
      SameInputs (.rdr 0x01) withRamp s ∧ SameInputs .nop withRamp s) ∧
    (SameInputs .check valid v ∧ SameInputs .b64enc valid v) ∧
    (SameInputs .decode withText v ∧ SameInputs .b64dec withText v ∧ SameInputs (.rdt 0x00) withText v) ∧
    (∃ t, exec (.encode 0x01 0) withRamp = .next t ∧ t.tlen = 48#7) ∧
    (∃ t, exec .decode withText = .next t ∧ t.status = 0x03#8) ∧
    (∃ t, exec .decode v = .next t ∧ t.status = 0x03#8) ∧
    (∃ t, exec .check valid = .next t ∧ t.status = 0x03#8) :=
  ⟨⟨rfl, rfl, rfl, rfl, rfl, rfl, trivial⟩, ⟨rfl, rfl⟩, ⟨⟨rfl, rfl⟩, ⟨rfl, rfl⟩, rfl⟩,
    reaches (·.tlen) (by decide), reaches (·.status) (by decide), reaches (·.status) (by decide),
    reaches (·.status) (by decide)⟩

/-- A machine that holds the result of a successful validation, and the host about to present a command. -/
def published : State :=
  presenting (.command 0x0000000000000000#64) { valid with status := 0x05#8, tag := 0xC0#8, wc := 0x000000FE#32 }

theorem published_inv : Inv published where
  buffers := by decide
  tlen := by decide
  statusReserved := by decide
  cleared := by decide
  published := by decide
  workchain := by decide
  responses := by simp [published, presenting, valid, machine, State.init]
  silent := by decide

theorem witness_EveryStepKeepsTheInvariant :
    Inv published ∧ ∃ t, step published = .next t ∧ t.response = some 0x0000000000000000#64 :=
  ⟨published_inv, reaches (·.response) (by decide)⟩

theorem witness_NoStepStopsTheBlock : Inv published ∧ HostReady published :=
  ⟨published_inv, fun _ _ _ => ⟨by decide, by decide⟩⟩

theorem witness_RawTextRoundTrip :
    let r : RawAddress := ⟨-1, ramp⟩
    r.account.length = 32 ∧ legalWorkchain r.workchain = true ∧ legalWorkchain 0 = true ∧ legalWorkchain 254 = true := by
  decide

theorem witness_ParseGivesBackWhatEncodeFriendlyTook :
    let r : RawAddress := ⟨254, ramp⟩
    r.account.length = 32 ∧ legalWorkchain r.workchain = true ∧ Inv published ∧ published.resetLine = false ∧
      published.response = none :=
  ⟨by decide, by decide, published_inv, by decide, by decide⟩

/-- The text of `withText` as a host is given it. -/
def rampChars : List Char := rampText.map fun c => Char.ofNat c.toNat

/-- The bytes that text decodes to. -/
def rampRecord : List Byte := groupBytes ((textValues rampText).getD [])

theorem rampRecord_decoded :
    GroupsDecoded (fun a : Nat => rampChars[a]?.map fun c : Char => BitVec.ofNat 8 c.toNat) (fun a : Nat => rampRecord[a]?) := by
  have codes : ∀ a : Nat, (rampChars[a]?.map fun c : Char => BitVec.ofNat 8 c.toNat) = rampText[a]? := by
    intro a
    rw [← List.getElem?_map]
    exact congrArg (·[a]?) (show rampChars.map (fun c : Char => BitVec.ofNat 8 c.toNat) = rampText by decide)
  have values : textValues rampText = some ((textValues rampText).getD []) := by
    cases h : textValues rampText with
    | some vs => rfl
    | none => exact absurd h (by decide)
  intro g c0 c1 c2 c3 v0 v1 v2 v3 _ h0 h1 h2 h3 e0 e1 e2 e3
  simp only [codes] at h0 h1 h2 h3
  have value := (textValues_eq_some values).2
  exact groupBytes_group _ g v0 v1 v2 v3 (value _ _ h0 ▸ e0) (value _ _ h1 ▸ e1) (value _ _ h2 ▸ e2) (value _ _ h3 ▸ e3)

set_option maxRecDepth 100000 in
/-- A text for each clause: one too long to be friendly and no raw address, a raw address, three malformed texts, one of
length 48 whose checksum matches. -/
theorem witness_ParseAddressFailsOnlyAsTheSpecSays :
    let r : RawAddress := ⟨-1, ramp⟩
    (64 < (List.replicate 65 'x').length ∧ parseRaw (List.replicate 65 'x') = none) ∧
    (64 < r.text.length ∧ parseRaw r.text = some r) ∧
    (MalformedFriendly ['0', ':', 'a'] ∧ MalformedFriendly (List.replicate 64 'A') ∧
      MalformedFriendly (List.replicate 48 '=')) ∧
    (¬ MalformedFriendly rampChars ∧ rampRecord.length = 36 ∧
      GroupsDecoded (fun a : Nat => rampChars[a]?.map fun c : Char => BitVec.ofNat 8 c.toNat) (fun a : Nat => rampRecord[a]?)) ∧
    (Inv published ∧ published.resetLine = false ∧ published.response = none) := by
  refine ⟨by decide, by decide, ⟨.inl (by decide), .inl (by decide), .inr ⟨'=', by decide, .inr (by decide)⟩⟩,
    ⟨?_, by decide, rampRecord_decoded⟩, published_inv, by decide, by decide⟩
  have valid : rampChars.all (fun c => c.toNat ≤ 255 && (b64val (BitVec.ofNat 8 c.toNat)).isSome) = true := by decide
  rintro (h | ⟨c, hc, h⟩)
  · exact h (by decide)
  · have hv := List.all_eq_true.mp valid c hc
    simp only [Bool.and_eq_true, decide_eq_true_eq] at hv
    rcases h with h | h
    · omega
    · simp [h] at hv

end Sys2Proof.Tests
end

section
/-! The scope statements (spec/00_scope.md R6): every command answers, and what it does depends on the word and the
seven elements of spec/10_state.md R10 alone. The idea: `exec i` is the end of one body per command, a body never meets
an absent location, and a body commutes with replacing everything that stands beside the seven elements. -/

namespace Sys2Proof.Machine

/-! ### One body per command -/

/-- The body of each command, before its end is made a response. -/
def commandBody : Instr → State → Ended
  | .nop => fun s => .done s 0#32
  | .rdr reg => rdrBody reg
  | .wrb idx val => storeByte .record idx val
  | .rdb idx => loadByte .record idx
  | .wrt idx val => storeByte .text idx val
  | .rdt idx => loadByte .text idx
  | .setlen len => setlenBody len
  | .crcclr => fun s => .done (s.setCrc Config.crcInit) 0#32
  | .crcput val => fun s => .done (s.setCrc (crcByte s.crc val)) 0#32
  | .crcfin => fun s => .done (s.setCrc (crcRun s.crc Config.crcPad)) 0#32
  | .pack flg wc => packBody flg wc
  | .check => checkBody
  | .b64enc => b64encBody
  | .b64dec => b64decBody
  | .encode flg wc => fun s => (packBody flg wc s).andThen b64encBody
  | .decode => fun s => (decodeTextBody s).andThen checkBody

/-- Every command is its body, and the response to how the body ended. -/
theorem exec_eq_finish_commandBody (i : Instr) (s : State) : exec i s = (commandBody i s).finish := by
  cases i <;> rfl

/-- All the body of `RDR` can do: answer a register, or fail where there is none (46_system.md R103). -/
theorem rdrBody_cases (reg : Byte) (s : State) :
    (∃ d, s.register (operandNat reg) = some d ∧ rdrBody reg s = .done s d) ∨
    (s.register (operandNat reg) = none ∧ rdrBody reg s = .failed .index s) := by
  unfold rdrBody
  cases s.register (operandNat reg) with
  | some d => exact .inl ⟨d, rfl, rfl⟩
  | none => exact .inr ⟨rfl, rfl⟩

/-- All the body of `SETLEN` can do: set `TLEN`, or fail on a length above 64 (45_buffer_access.md R99). -/
theorem setlenBody_cases (len : Byte) (s : State) :
    (len.toNat ≤ 64 ∧ setlenBody len s = .done (s.setTlen (len.setWidth 7)) 0#32) ∨
    (64 < len.toNat ∧ setlenBody len s = .failed .index s) :=
  (Nat.lt_or_ge 64 len.toNat).symm.imp (fun h => ⟨h, if_pos h⟩) fun h => ⟨h, if_neg (Nat.not_le.mpr h)⟩

/-! ### Every body ends with a code -/

/-- The body ended with a code and data, at no absent location. -/
def Ended.Answers (b : Ended) : Prop := ∃ e d t, b = .ended e d t

theorem Ended.answers_ended (e : ErrCode) (d : Word32) (t : State) : (Ended.ended e d t).Answers := ⟨e, d, t, rfl⟩

/-- A composite answers when its first body does and its second body does from every state. -/
theorem Ended.Answers.andThen {b : Ended} (hb : b.Answers) {k : State → Ended} (hk : ∀ t, (k t).Answers) :
    (b.andThen k).Answers := by
  obtain ⟨e, d, t, rfl⟩ := hb
  by_cases he : e = .ok
  · subst he
    exact hk t
  · rw [Ended.andThen_failed he]
    exact Ended.answers_ended e d t

theorem rdrBody_answers (reg : Byte) (s : State) : (rdrBody reg s).Answers := by
  obtain ⟨_, _, h⟩ | ⟨_, h⟩ := rdrBody_cases reg s <;> exact ⟨_, _, _, h⟩

theorem setlenBody_answers (len : Byte) (s : State) : (setlenBody len s).Answers := by
  obtain ⟨_, h⟩ | ⟨_, h⟩ := setlenBody_cases len s <;> exact ⟨_, _, _, h⟩

theorem storeByte_answers (sp : Space) (idx val : Byte) (s : State) : (storeByte sp idx val s).Answers := by
  obtain ⟨_, h⟩ | ⟨_, h⟩ := storeByte_cases sp idx val s <;> exact ⟨_, _, _, h⟩

theorem loadByte_answers (sp : Space) (idx : Byte) (s : State) : (loadByte sp idx s).Answers := by
  obtain ⟨_, h⟩ | ⟨_, _, _, h⟩ := loadByte_cases sp idx s <;> exact ⟨_, _, _, h⟩

theorem packBody_answers (flg : Byte) (wc : Word32) (s : State) : (packBody flg wc s).Answers := by
  obtain ⟨_, h⟩ | ⟨_, _, _, _, _, h⟩ := packBody_cases flg wc s <;> exact ⟨_, _, _, h⟩

theorem checkBody_answers (s : State) : (checkBody s).Answers := by
  obtain ⟨_, _, h⟩ := checkBody_eq s
  exact ⟨_, _, _, h⟩

theorem b64encBody_answers (s : State) : (b64encBody s).Answers := by
  obtain ⟨_, _, h⟩ := b64encBody_eq s
  exact ⟨_, _, _, h⟩

theorem b64decBody_answers (s : State) : (b64decBody s).Answers := by
  obtain ⟨_, h⟩ | ⟨_, _, _, _, h⟩ | ⟨_, _, _, _, _, h⟩ := b64decBody_cases s <;> exact ⟨_, _, _, h⟩

theorem decodeTextBody_answers (s : State) : (decodeTextBody s).Answers := by
  obtain ⟨e, d, t, h⟩ := b64decBody_answers s
  by_cases he : e = .ok
  · subst he
    exact ⟨_, _, _, decodeTextBody_of_done h⟩
  · exact ⟨_, _, _, decodeTextBody_of_failed he h⟩

/-- No command meets a location that its buffer does not have (45_buffer_access.md R100). -/
theorem commandBody_answers (i : Instr) (s : State) : (commandBody i s).Answers := by
  cases i with
  | nop | crcclr | crcput val | crcfin => exact Ended.answers_ended _ _ _
  | rdr reg => exact rdrBody_answers reg s
  | wrb idx val | wrt idx val => exact storeByte_answers _ idx val s
  | rdb idx | rdt idx => exact loadByte_answers _ idx s
  | setlen len => exact setlenBody_answers len s
  | pack flg wc => exact packBody_answers flg wc s
  | check => exact checkBody_answers s
  | b64enc => exact b64encBody_answers s
  | b64dec => exact b64decBody_answers s
  | encode flg wc => exact (packBody_answers flg wc s).andThen b64encBody_answers
  | decode => exact (decodeTextBody_answers s).andThen checkBody_answers

/-! ### No body reads or writes what stands beside the seven elements -/

/-- The same seven elements in other surroundings. -/
def State.surroundedBy (s : State) (p : Surroundings) : State := { s with toSurroundings := p }

@[simp] theorem State.surroundedBy_toArchState (s : State) (p : Surroundings) :
    (s.surroundedBy p).toArchState = s.toArchState := rfl

/-- The state a body left, in other surroundings. -/
def Ended.surroundedBy (b : Ended) (p : Surroundings) : Ended :=
  match b with
  | .ended e d s => .ended e d (s.surroundedBy p)
  | .absent sp => .absent sp

@[simp] theorem Ended.surroundedBy_ended (e : ErrCode) (d : Word32) (s : State) (p : Surroundings) :
    (Ended.ended e d s).surroundedBy p = .ended e d (s.surroundedBy p) := rfl

/-- The body acts on the seven elements only: run in other surroundings, it ends alike and leaves those. -/
def ActsOnElements (body : State → Ended) : Prop :=
  ∀ s p, body (s.surroundedBy p) = (body s).surroundedBy p

theorem present_surroundedBy {α : Type} (sp : Space) (o : Option α) (k : α → Ended) (p : Surroundings) :
    (present sp o k).surroundedBy p = present sp o fun v => (k v).surroundedBy p := by
  cases o <;> rfl

theorem Ended.ite_surroundedBy (c : Prop) [Decidable c] (b b' : Ended) (p : Surroundings) :
    (if c then b else b').surroundedBy p = if c then b.surroundedBy p else b'.surroundedBy p :=
  apply_ite (Ended.surroundedBy · p) c b b'

theorem State.setMem_surroundedBy (s : State) (sp : Space) (m : Buffer sp.size) (p : Surroundings) :
    (s.surroundedBy p).setMem sp m = (s.setMem sp m).surroundedBy p := by
  cases sp <;> rfl

theorem State.mem_surroundedBy (s : State) (sp : Space) (p : Surroundings) :
    (s.surroundedBy p).mem sp = s.mem sp := by
  cases sp <;> rfl

theorem State.readByte_surroundedBy (s : State) (sp : Space) (a : Nat) (p : Surroundings) :
    (s.surroundedBy p).readByte sp a = s.readByte sp a := by
  simp only [State.readByte, State.mem_surroundedBy]

theorem State.checked_surroundedBy (s : State) (r : Record) (p : Surroundings) :
    (s.surroundedBy p).checked r = (s.checked r).surroundedBy p := by
  cases h : r.sumMatches with
  | true => rw [State.checked_of_match _ h, State.checked_of_match _ h]; rfl
  | false => rw [State.checked_of_mismatch _ h, State.checked_of_mismatch _ h]; rfl

theorem ActsOnElements.andThen {body next : State → Ended} (hb : ActsOnElements body) (hn : ActsOnElements next) :
    ActsOnElements fun s => (body s).andThen next := by
  intro s p
  simp only [hb s p]
  cases body s with
  | absent sp => rfl
  | ended e d t =>
    by_cases he : e = .ok
    · subst he
      exact hn t p
    · simp only [Ended.surroundedBy_ended, Ended.andThen_failed he]

theorem rdrBody_actsOnElements (reg : Byte) : ActsOnElements (rdrBody reg) := by
  intro s p
  have same : (s.surroundedBy p).register (operandNat reg) = s.register (operandNat reg) := rfl
  unfold rdrBody
  rw [same]
  cases s.register (operandNat reg) <;> rfl

theorem storeByte_actsOnElements (sp : Space) (idx val : Byte) : ActsOnElements (storeByte sp idx val) := by
  intro s p
  simp only [storeByte, Ended.ite_surroundedBy, present_surroundedBy, Ended.surroundedBy_ended,
    State.mem_surroundedBy, State.setMem_surroundedBy]

theorem loadByte_actsOnElements (sp : Space) (idx : Byte) : ActsOnElements (loadByte sp idx) := by
  intro s p
  simp only [loadByte, Ended.ite_surroundedBy, present_surroundedBy, Ended.surroundedBy_ended,
    State.readByte_surroundedBy]

theorem setlenBody_actsOnElements (len : Byte) : ActsOnElements (setlenBody len) := by
  intro s p
  simp only [setlenBody, Ended.ite_surroundedBy]
  rfl

theorem packBody_actsOnElements (flg : Byte) (wc : Word32) : ActsOnElements (packBody flg wc) := by
  intro s p
  simp only [packBody, Ended.ite_surroundedBy, present_surroundedBy]
  rfl

theorem checkBody_actsOnElements : ActsOnElements checkBody := by
  intro s p
  simp only [checkBody, present_surroundedBy, Ended.surroundedBy_ended, State.checked_surroundedBy,
    State.surroundedBy_toArchState]

theorem b64encBody_actsOnElements : ActsOnElements b64encBody := by
  intro s p
  simp only [b64encBody, present_surroundedBy]
  rfl

theorem b64decBody_actsOnElements : ActsOnElements b64decBody := by
  intro s p
  simp only [b64decBody, Ended.ite_surroundedBy, present_surroundedBy, State.surroundedBy_toArchState]
  congr 2
  funext text
  cases b64Decode text with
  | none => rfl
  | some bytes => simp only [present_surroundedBy]; rfl

theorem decodeTextBody_actsOnElements : ActsOnElements decodeTextBody := by
  intro s p
  simp only [decodeTextBody, b64decBody_actsOnElements s p]
  cases b64decBody s with
  | absent sp => rfl
  | ended e d t => cases e <;> rfl

/-- No command reads the response port, the reset input or the host's lists, and its body writes none of them. -/
theorem commandBody_actsOnElements (i : Instr) : ActsOnElements (commandBody i) := by
  cases i with
  | nop | crcclr | crcput val | crcfin => exact fun _ _ => rfl
  | rdr reg => exact rdrBody_actsOnElements reg
  | wrb idx val | wrt idx val => exact storeByte_actsOnElements _ idx val
  | rdb idx | rdt idx => exact loadByte_actsOnElements _ idx
  | setlen len => exact setlenBody_actsOnElements len
  | pack flg wc => exact packBody_actsOnElements flg wc
  | check => exact checkBody_actsOnElements
  | b64enc => exact b64encBody_actsOnElements
  | b64dec => exact b64decBody_actsOnElements
  | encode flg wc => exact (packBody_actsOnElements flg wc).andThen b64encBody_actsOnElements
  | decode => exact decodeTextBody_actsOnElements.andThen checkBody_actsOnElements

/-! ### Commands and command words -/

/-- A command leaves the same elements and the same response in all surroundings, and nothing else there changes. -/
theorem exec_surroundedBy (i : Instr) (s : State) :
    ∃ (t : State) (r : ResponseWord), ∀ p, exec i (s.surroundedBy p) = .next ((t.surroundedBy p).answer r) := by
  obtain ⟨e, d, t, h⟩ := commandBody_answers i s
  refine ⟨t, responseWord e d, fun p => ?_⟩
  rw [exec_eq_finish_commandBody, commandBody_actsOnElements i s p, h]
  rfl

/-- Every command answers a next state. -/
theorem exec_answers (i : Instr) (s : State) : ∃ t, exec i s = .next t := by
  obtain ⟨t, r, h⟩ := exec_surroundedBy i s
  exact ⟨_, h s.toSurroundings⟩

theorem runWord_of_ok {w : CommandWord} {i : Instr} (h : decode w = .ok i) (s : State) : runWord w s = exec i s := by
  simp only [runWord, h]

theorem runWord_of_error {w : CommandWord} {e : Illegal} (h : decode w = .error e) (s : State) :
    runWord w s = .next (s.fail .illegal) := by
  simp only [runWord, h]

/-- A word, legal or not, leaves the same elements and the same response in all surroundings. -/
theorem runWord_surroundedBy (w : CommandWord) (s : State) :
    ∃ (t : State) (r : ResponseWord), ∀ p, runWord w (s.surroundedBy p) = .next ((t.surroundedBy p).answer r) := by
  cases h : decode w with
  | ok i =>
    simp only [runWord_of_ok h]
    exact exec_surroundedBy i s
  | error e => exact ⟨s, responseWord .illegal 0#32, fun p => runWord_of_error h _⟩

/-- The block's answer to a word is the transaction on its seven elements; the rest of the state stays. -/
theorem runWord_eq_transaction (w : CommandWord) (s : State) :
    runWord w s = .next { s with toArchState := (s.toArchState.transaction w).1,
                                 response := some (s.toArchState.transaction w).2 } := by
  obtain ⟨t, r, h⟩ := runWord_surroundedBy w s
  have idle : runWord w s.toArchState.idle = .next ((t.surroundedBy s.toArchState.idle.toSurroundings).answer r) :=
    h s.toArchState.idle.toSurroundings
  have trans : s.toArchState.transaction w = (t.toArchState, r) := by
    rw [ArchState.transaction, idle]
    rfl
  rw [trans]
  exact h s.toSurroundings

theorem runWord_answers (w : CommandWord) (s : State) : ∃ t, runWord w s = .next t :=
  ⟨_, runWord_eq_transaction w s⟩

/-- Settles O47: the bodies end with a code and act on the seven elements only. -/
theorem everyCommandAnswers : Obligations.EveryCommandAnswers :=
  ⟨exec_answers, runWord_eq_transaction⟩

/-! ### The step -/

/-- A word presented with reset released and no response waiting is run. -/
theorem step_of_ready_command {s : State} {w : CommandWord} {rest : List HostInput}
    (hi : s.inputs = .command w :: rest) (hl : s.resetLine = false) (hr : s.response = none) :
    step s = runWord w { s with inputs := rest } := by
  simp [step, hi, acceptCommand, hl, hr, State.withInputs]

/-- Settles O57: a command is presented only where it is run, and the other host actions always answer. -/
theorem noStepStopsTheBlock : Obligations.NoStepStopsTheBlock := by
  intro s _ ready
  unfold StepsOn
  match hi : s.inputs with
  | [] => exact ⟨s, by simp only [step, hi]⟩
  | .command w :: rest =>
    obtain ⟨hl, hr⟩ := ready w rest hi
    rw [step_of_ready_command hi hl hr]
    exact runWord_answers w _
  | .takeResponse :: rest => exact ⟨(s.withInputs rest).takeResponse, by simp only [step, hi]⟩
  | .assertReset :: rest => exact ⟨(s.withInputs rest).assertReset, by simp only [step, hi]⟩
  | .releaseReset :: rest => exact ⟨(s.withInputs rest).releaseReset, by simp only [step, hi]⟩

/-- `E_ILLEGAL`, as the word it is (60_exceptions.md R120). -/
theorem State.fail_illegal (s : State) : s.fail .illegal = { s with response := some 0x0000000100000000#64 } := by
  simp [State.fail, State.answer]

/-- Settles O6: a word at a ready port is run, and running it is `exec` of the command it spells. -/
theorem stepRunsTheDecodedCommand : Obligations.StepRunsTheDecodedCommand := by
  constructor
  · intro s w rest i hi hl hr hd
    rw [step_of_ready_command hi hl hr, runWord_of_ok hd]
  · intro s w rest e hi hl hr hd
    rw [step_of_ready_command hi hl hr, runWord_of_error hd, State.fail_illegal]

end Sys2Proof.Machine
end

section
/-! The state rules (spec/10_state.md R13 to R21): which elements a command writes, that every step keeps the
invariant, and that reset has it. The idea: one inversion, `exec_wrote`, says of every command what it can leave; the
write sets and the invariant are read off it. -/

namespace Sys2Proof.Machine

/-! ### What the result registers and the response can hold -/

/-- What the invariant says of `STATUS`, `TAG` and `WC` together (10_state.md R17 to R19). -/
structure GoodResult (status tag : Byte) (wc : Word32) : Prop where
  reserved : status.extractLsb' 3 5 = 0#5
  cleared : statusValid status = false →
    statusBnc status = false ∧ statusTst status = false ∧ tag = 0x00#8 ∧ wc = 0x00000000#32
  published : statusValid status = true →
    statusBnc status = (tag &&& 0x40#8 == 0x00#8) ∧ statusTst status = (tag &&& 0x80#8 != 0x00#8)
  workchain : wc = 0xFFFFFFFF#32 ∨ wc.toNat ≤ 254

/-- The cleared registers, as after reset and after a failed validation. -/
theorem GoodResult.zero : GoodResult 0x00#8 0x00#8 0x00000000#32 where
  reserved := by decide
  cleared := by decide
  published := by decide
  workchain := by decide

/-- The bits of a published status (43_check.md R85). -/
theorem validStatus_bits (tag : Byte) :
    (validStatus tag).extractLsb' 3 5 = 0#5 ∧ statusValid (validStatus tag) = true ∧
      statusBnc (validStatus tag) = tagIsBounceable tag ∧ statusTst (validStatus tag) = tagIsTestnet tag := by
  unfold validStatus
  generalize tagIsTestnet tag = tst
  generalize tagIsBounceable tag = bnc
  revert tst bnc
  decide

/-- A workchain read from a record byte is -1 or 0 to 254 (30_encoding.md R54). -/
theorem readWorkchain_range (b : Byte) : readWorkchain b = 0xFFFFFFFF#32 ∨ (readWorkchain b).toNat ≤ 254 := by
  unfold readWorkchain
  split
  · exact .inl rfl
  · next hb =>
    have hne : b.toNat ≠ 255 := fun h => hb (BitVec.eq_of_toNat_eq h)
    refine .inr ?_
    rw [BitVec.toNat_setWidth]
    omega

/-- What a successful validation publishes (43_check.md R85). -/
theorem GoodResult.of_valid (tag wcByte : Byte) : GoodResult (validStatus tag) tag (readWorkchain wcByte) := by
  obtain ⟨hres, hvalid, hbnc, htst⟩ := validStatus_bits tag
  exact ⟨hres, fun h => by simp [hvalid] at h, fun _ => ⟨hbnc, htst⟩, readWorkchain_range wcByte⟩

theorem Inv.goodResult {s : State} (h : Inv s) : GoodResult s.status s.tag s.wc :=
  ⟨h.statusReserved, h.cleared, h.published, h.workchain⟩

/-- The invariant, put together: the form of the buffers is their type's. -/
theorem Inv.of_parts {s : State} (htlen : s.tlen.toNat ≤ 64) (hres : GoodResult s.status s.tag s.wc)
    (hresp : ∀ r, s.response = some r ∨ r ∈ s.taken → LegalResponse r)
    (hsilent : s.resetLine = true → s.response = none) : Inv s :=
  ⟨⟨s.buf.form, s.txt.form⟩, htlen, hres.reserved, hres.cleared, hres.published, hres.workchain, hresp, hsilent⟩

/-- A word with an error code and, on a failure, data 0 is a response word (30_encoding.md R45, R46). -/
theorem legalResponse_responseWord {e : ErrCode} {d : Word32} (h : e ≠ .ok → d = 0#32) :
    LegalResponse (responseWord e d) := by
  refine ⟨?_, ?_, ?_⟩
  · apply BitVec.eq_of_getLsbD_eq
    intro i hi
    simp [responseWord_eq_c64, getLsbD_c64, show ¬ 40 + i < 32 by omega]
  · rw [responseErr_responseWord]
    cases e <;> decide
  · rw [responseErr_responseWord, responseData_responseWord]
    exact fun hc => h fun he => hc (he ▸ rfl)

/-! ### What each command can leave -/

/-- All that a command can do to the seven elements, up to the values it writes: the write sets of 10_state.md R13 to
R19, a `TLEN` in its range and result registers in their form. -/
def Wrote (i : Instr) (s t : State) : Prop :=
  match i with
  | .nop | .rdr _ | .rdb _ | .rdt _ => t = s
  | .wrb _ _ | .b64dec => ∃ m, t = s.setBuf m
  | .wrt _ _ => ∃ x, t = s.setTxt x
  | .setlen _ => t = s ∨ ∃ n : BitVec 7, n.toNat ≤ 64 ∧ t = s.setTlen n
  | .crcclr | .crcput _ | .crcfin => ∃ c, t = s.setCrc c
  | .pack _ _ => ∃ m c, t = (s.setBuf m).setCrc c
  | .check => ∃ c st tg w, GoodResult st tg w ∧ t = (s.setCrc c).setResult st tg w
  | .b64enc => ∃ x, t = (s.setTxt x).setTlen 48#7
  | .encode _ _ => t = s ∨ ∃ m c x, t = (((s.setBuf m).setCrc c).setTxt x).setTlen 48#7
  | .decode => ∃ m c st tg w, GoodResult st tg w ∧ t = ((s.setBuf m).setCrc c).setResult st tg w

/-- The body ends with a state that satisfies `P`, and with data 0 where it fails. -/
def Ended.Leaves (P : State → Prop) (b : Ended) : Prop :=
  ∃ e d t, b = .ended e d t ∧ (e ≠ .ok → d = 0#32) ∧ P t

theorem Ended.leaves_done {P : State → Prop} {t : State} {d : Word32} (h : P t) : (Ended.done t d).Leaves P :=
  ⟨.ok, d, t, rfl, fun he => absurd rfl he, h⟩

theorem Ended.leaves_zero {P : State → Prop} {e : ErrCode} {t : State} (h : P t) : (Ended.ended e 0#32 t).Leaves P :=
  ⟨e, 0#32, t, rfl, fun _ => rfl, h⟩

theorem storeByte_leaves (sp : Space) (idx val : Byte) (s : State) :
    (storeByte sp idx val s).Leaves fun t => ∃ m, t = s.setMem sp m := by
  obtain ⟨-, h⟩ | ⟨-, h⟩ := storeByte_cases sp idx val s <;> rw [h]
  · exact Ended.leaves_zero ⟨s.mem sp, by cases sp <;> rfl⟩
  · exact Ended.leaves_done ⟨_, rfl⟩

theorem loadByte_leaves (sp : Space) (idx : Byte) (s : State) : (loadByte sp idx s).Leaves (· = s) := by
  obtain ⟨-, h⟩ | ⟨-, _, -, h⟩ := loadByte_cases sp idx s <;> rw [h]
  · exact Ended.leaves_zero rfl
  · exact Ended.leaves_done rfl

theorem rdrBody_leaves (reg : Byte) (s : State) : (rdrBody reg s).Leaves (· = s) := by
  obtain ⟨_, -, h⟩ | ⟨-, h⟩ := rdrBody_cases reg s <;> rw [h]
  · exact Ended.leaves_done rfl
  · exact Ended.leaves_zero rfl

theorem setlenBody_leaves (len : Byte) (s : State) : (setlenBody len s).Leaves (Wrote (.setlen len) s) := by
  obtain ⟨hl, h⟩ | ⟨-, h⟩ := setlenBody_cases len s <;> rw [h]
  · have hn : (len.setWidth 7).toNat ≤ 64 := by
      rw [BitVec.toNat_setWidth]
      omega
    exact Ended.leaves_done (.inr ⟨_, hn, rfl⟩)
  · exact Ended.leaves_zero (.inl rfl)

theorem packBody_leaves (flg : Byte) (wc : Word32) (s : State) :
    (packBody flg wc s).Leaves (Wrote (.pack flg wc) s) := by
  obtain ⟨-, h⟩ | ⟨-, _, m, -, -, h⟩ := packBody_cases flg wc s <;> rw [h]
  · exact Ended.leaves_zero ⟨s.buf, s.crc, rfl⟩
  · exact Ended.leaves_done ⟨m, _, rfl⟩

theorem b64encBody_leaves (s : State) : (b64encBody s).Leaves (Wrote .b64enc s) := by
  obtain ⟨_, -, h⟩ := b64encBody_eq s
  rw [h]
  exact Ended.leaves_done ⟨_, rfl⟩

theorem b64decBody_leaves (s : State) : (b64decBody s).Leaves (Wrote .b64dec s) := by
  obtain ⟨-, h⟩ | ⟨-, _, -, -, h⟩ | ⟨-, _, _, -, -, h⟩ := b64decBody_cases s <;> rw [h]
  · exact Ended.leaves_zero ⟨s.buf, rfl⟩
  · exact Ended.leaves_zero ⟨s.buf, rfl⟩
  · exact Ended.leaves_done ⟨_, rfl⟩

/-- `CHECK` publishes the result registers or clears them. -/
theorem State.checked_wrote (s : State) (r : Record) : Wrote .check s (s.checked r) := by
  cases h : r.sumMatches with
  | true => exact ⟨_, _, _, _, GoodResult.of_valid _ _, State.checked_of_match s h⟩
  | false => exact ⟨_, _, _, _, GoodResult.zero, State.checked_of_mismatch s h⟩

theorem checkBody_leaves (s : State) : (checkBody s).Leaves (Wrote .check s) := by
  obtain ⟨r, -, h⟩ := checkBody_eq s
  rw [h]
  exact Ended.leaves_zero (s.checked_wrote r)

theorem encode_leaves (flg : Byte) (wc : Word32) (s : State) :
    ((packBody flg wc s).andThen b64encBody).Leaves (Wrote (.encode flg wc) s) := by
  obtain ⟨-, h⟩ | ⟨-, _, m, -, -, h⟩ := packBody_cases flg wc s <;> rw [h]
  · exact Ended.leaves_zero (.inl rfl)
  · obtain ⟨e, d, t, hb, hd, x, rfl⟩ := b64encBody_leaves ((s.setBuf m).setCrc _)
    exact ⟨e, d, _, hb, hd, .inr ⟨m, _, x, rfl⟩⟩

/-- All the base64 stage of `DECODE` can do: fail with the result registers cleared, or write `BUF` only. -/
theorem decodeTextBody_cases (s : State) :
    (∃ e, e ≠ .ok ∧ decodeTextBody s = .failed e s.clearResult) ∨
    (∃ m, decodeTextBody s = .done (s.setBuf m) 0#32) := by
  obtain ⟨-, h⟩ | ⟨-, _, -, -, h⟩ | ⟨-, _, _, -, -, h⟩ := b64decBody_cases s
  · exact .inl ⟨.length, by decide, decodeTextBody_of_failed (by decide) h⟩
  · exact .inl ⟨.alphabet, by decide, decodeTextBody_of_failed (by decide) h⟩
  · exact .inr ⟨_, decodeTextBody_of_done h⟩

theorem decode_leaves (s : State) : ((decodeTextBody s).andThen checkBody).Leaves (Wrote .decode s) := by
  obtain ⟨e, he, h⟩ | ⟨m, h⟩ := decodeTextBody_cases s <;> rw [h]
  · rw [Ended.andThen_failed he]
    exact Ended.leaves_zero ⟨s.buf, s.crc, _, _, _, GoodResult.zero, rfl⟩
  · obtain ⟨e, d, t, hb, hd, c, st, tg, w, hg, rfl⟩ := checkBody_leaves (s.setBuf m)
    exact ⟨e, d, _, hb, hd, m, c, st, tg, w, hg, rfl⟩

theorem commandBody_leaves (i : Instr) (s : State) : (commandBody i s).Leaves (Wrote i s) := by
  cases i with
  | nop => exact Ended.leaves_done rfl
  | crcclr | crcput val | crcfin => exact Ended.leaves_done ⟨_, rfl⟩
  | rdr reg => exact rdrBody_leaves reg s
  | wrb idx val => exact storeByte_leaves .record idx val s
  | wrt idx val => exact storeByte_leaves .text idx val s
  | rdb idx | rdt idx => exact loadByte_leaves _ idx s
  | setlen len => exact setlenBody_leaves len s
  | pack flg wc => exact packBody_leaves flg wc s
  | check => exact checkBody_leaves s
  | b64enc => exact b64encBody_leaves s
  | b64dec => exact b64decBody_leaves s
  | encode flg wc => exact encode_leaves flg wc s
  | decode => exact decode_leaves s

/-- All that a command can do: the writes of its rule, then one response word. -/
theorem exec_wrote {i : Instr} {s t : State} (h : exec i s = .next t) :
    ∃ r u, LegalResponse r ∧ Wrote i s u ∧ t = u.answer r := by
  obtain ⟨e, d, u, hb, hd, hu⟩ := commandBody_leaves i s
  rw [exec_eq_finish_commandBody, hb, Ended.finish_ended] at h
  exact ⟨_, u, legalResponse_responseWord hd, hu, by simpa using h.symm⟩

/-! ### The write sets -/

/-- Settles O53: command by command, from what it can have written. -/
theorem elementsAreWrittenOnlyByTheNamedCommands : Obligations.ElementsAreWrittenOnlyByTheNamedCommands := by
  intro i s t h
  obtain ⟨r, u, -, hu, rfl⟩ := exec_wrote h
  cases i with
  | nop | rdr reg | rdb idx | rdt idx => cases hu; simp
  | wrb idx val | b64dec => obtain ⟨m, rfl⟩ := hu; simp
  | wrt idx val => obtain ⟨x, rfl⟩ := hu; simp
  | setlen len => obtain rfl | ⟨n, -, rfl⟩ := hu <;> simp
  | crcclr | crcput val | crcfin => obtain ⟨c, rfl⟩ := hu; simp
  | pack flg wc => obtain ⟨m, c, rfl⟩ := hu; simp
  | check => obtain ⟨c, st, tg, w, -, rfl⟩ := hu; simp
  | b64enc => obtain ⟨x, rfl⟩ := hu; simp
  | encode flg wc => obtain rfl | ⟨m, c, x, rfl⟩ := hu <;> simp
  | decode => obtain ⟨m, c, st, tg, w, -, rfl⟩ := hu; simp

/-! ### The invariant -/

/-- `TLEN` in its range and the result registers in their form: the part of the invariant that commands can touch. -/
def GoodRegisters (s : State) : Prop := s.tlen.toNat ≤ 64 ∧ GoodResult s.status s.tag s.wc

theorem Wrote.keeps_goodRegisters {i : Instr} {s t : State} (h : Wrote i s t) (hs : GoodRegisters s) :
    GoodRegisters t := by
  obtain ⟨hlen, hres⟩ := hs
  cases i with
  | nop | rdr reg | rdb idx | rdt idx => cases h; exact ⟨hlen, hres⟩
  | wrb idx val | b64dec => obtain ⟨m, rfl⟩ := h; exact ⟨hlen, hres⟩
  | wrt idx val => obtain ⟨x, rfl⟩ := h; exact ⟨hlen, hres⟩
  | setlen len => obtain rfl | ⟨n, hn, rfl⟩ := h; exacts [⟨hlen, hres⟩, ⟨hn, hres⟩]
  | crcclr | crcput val | crcfin => obtain ⟨c, rfl⟩ := h; exact ⟨hlen, hres⟩
  | pack flg wc => obtain ⟨m, c, rfl⟩ := h; exact ⟨hlen, hres⟩
  | check => obtain ⟨c, st, tg, w, hg, rfl⟩ := h; exact ⟨hlen, hg⟩
  | b64enc => obtain ⟨x, rfl⟩ := h; exact ⟨by simp, hres⟩
  | encode flg wc => obtain rfl | ⟨m, c, x, rfl⟩ := h; exacts [⟨hlen, hres⟩, ⟨by simp, hres⟩]
  | decode => obtain ⟨m, c, st, tg, w, hg, rfl⟩ := h; exact ⟨hlen, hg⟩

/-- A command leaves the host's side alone but for the response. -/
theorem exec_surroundings {i : Instr} {s t : State} (h : exec i s = .next t) :
    t.inputs = s.inputs ∧ t.taken = s.taken ∧ t.resetLine = s.resetLine ∧ t.draws = s.draws := by
  obtain ⟨u, r, hu⟩ := exec_surroundedBy i s
  obtain rfl : t = (u.surroundedBy s.toSurroundings).answer r := by simpa using h.symm.trans (hu s.toSurroundings)
  exact ⟨rfl, rfl, rfl, rfl⟩

/-- A response word at a released port keeps the invariant of the state it answers from. -/
theorem Inv.of_answered {s t : State} {r : ResponseWord} (hs : Inv s) (hgood : GoodRegisters t)
    (hr : LegalResponse r) (hresp : t.response = some r) (htaken : t.taken = s.taken)
    (hline : t.resetLine = false) : Inv t := by
  obtain ⟨hlen, hres⟩ := hgood
  refine .of_parts hlen hres (fun q hq => ?_) (by simp [hline])
  rw [hresp, htaken] at hq
  obtain hq | hq := hq
  · exact Option.some.inj hq ▸ hr
  · exact hs.responses q (.inr hq)

theorem runWord_keeps_inv {w : CommandWord} {s t : State} (hs : Inv s) (hline : s.resetLine = false)
    (h : runWord w s = .next t) : Inv t := by
  obtain ⟨i, -, hrun⟩ | ⟨-, -, hrun⟩ := runWord_cases w s
  · have hexec : exec i s = .next t := hrun ▸ h
    obtain ⟨-, htaken, hkept, -⟩ := exec_surroundings hexec
    obtain ⟨r, u, hr, hu, rfl⟩ := exec_wrote hexec
    exact hs.of_answered (hu.keeps_goodRegisters ⟨hs.tlen, hs.goodResult⟩) hr rfl htaken (hkept.trans hline)
  · obtain rfl : s.fail .illegal = t := by simpa using hrun.symm.trans h
    exact hs.of_answered ⟨hs.tlen, hs.goodResult⟩ (legalResponse_responseWord fun _ => rfl) rfl rfl hline

/-- The invariant does not speak of the host's list. -/
theorem Inv.withInputs {s : State} (h : Inv s) (rest : List HostInput) : Inv (s.withInputs rest) :=
  .of_parts h.tlen h.goodResult h.responses h.silent

theorem Inv.takeResponse {s : State} (h : Inv s) : Inv s.takeResponse := by
  cases hr : s.response with
  | none => rwa [State.takeResponse_of_none hr]
  | some r =>
    rw [State.takeResponse_of_some hr]
    refine .of_parts h.tlen h.goodResult (fun q hq => h.responses q ?_) fun _ => rfl
    simpa [hr, eq_comm] using hq

theorem Inv.assertReset {s : State} (h : Inv s) : Inv s.assertReset :=
  .of_parts h.tlen h.goodResult (fun q hq => h.responses q (.inr (by simpa using hq))) fun _ => rfl

/-- A state with the registers of a reset state keeps the invariant if the host took response words only. -/
theorem Inv.of_init (b x : Nat → Byte) (inputs : List HostInput) (taken : List ResponseWord) (draws : Nat)
    (h : ∀ r ∈ taken, LegalResponse r) :
    Inv { State.init b x with inputs := inputs, taken := taken, draws := draws } :=
  .of_parts (by simp) GoodResult.zero (fun q hq => h q (by simpa using hq)) fun _ => rfl

theorem Inv.releaseReset {s : State} (h : Inv s) : Inv s.releaseReset := by
  cases hl : s.resetLine with
  | true =>
    rw [State.releaseReset_of_asserted hl]
    exact .of_init _ _ _ _ _ fun r hr => h.responses r (.inr hr)
  | false => rwa [State.releaseReset_of_released hl]

/-- Settles O56: by the cases of a step, a command by what it can have written. -/
theorem everyStepKeepsTheInvariant : Obligations.EveryStepKeepsTheInvariant := by
  intro s t hs h
  obtain ⟨-, rfl⟩ | ⟨w, rest, -, hl, -, hw⟩ | ⟨rest, -, rfl⟩ | ⟨rest, -, rfl⟩ | ⟨rest, -, rfl⟩ := step_cases h
  · exact hs
  · exact runWord_keeps_inv (hs.withInputs rest) hl hw
  · exact (hs.withInputs rest).takeResponse
  · exact (hs.withInputs rest).assertReset
  · exact (hs.withInputs rest).releaseReset

/-! ### Reset -/

/-- Settles O55: no word was taken, and the registers are zero. -/
theorem invariantHoldsAtReset : Obligations.InvariantHoldsAtReset :=
  fun b x => .of_init b x [] [] 0 (by simp)

theorem Buffer.read_filled_eq (size : Nat) (f : Nat → Byte) (a : Nat) :
    (Buffer.filled size f).read a = if a < size then some (f a) else none := by
  split
  · exact Buffer.read_filled size f ‹_›
  · exact Buffer.read_eq_none _ (by omega)

/-- Settles O10: a buffer made from drawn contents reads as they say. -/
theorem resetValuesAreThoseOfTheSpec : Obligations.ResetValuesAreThoseOfTheSpec :=
  ⟨⟨_, _, rfl⟩, fun b x => ⟨rfl, rfl, rfl, rfl, rfl, Buffer.read_filled_eq 36 b, Buffer.read_filled_eq 64 x⟩⟩

end Sys2Proof.Machine
end

section
/-! A command's outputs are a function of its inputs (spec/10_state.md R23). The idea: two runs of a body from states
that agree on its inputs end with the same code and data and write every element alike; writing alike composes, so a
composite follows from its parts, as its second body reads only the record that the first one left. -/

namespace Sys2Proof.Machine

/-! ### Elements written alike -/

theorem WrittenAlike.unwritten {α : Type} (b₁ b₂ : α) : WrittenAlike b₁ b₁ b₂ b₂ := .inr ⟨rfl, rfl⟩

/-- Two writes one after the other, each alike, are alike. -/
theorem WrittenAlike.trans {α : Type} {a₁ b₁ c₁ a₂ b₂ c₂ : α} (h : WrittenAlike a₁ b₁ a₂ b₂)
    (h' : WrittenAlike b₁ c₁ b₂ c₂) : WrittenAlike a₁ c₁ a₂ c₂ := by
  obtain hc | ⟨rfl, rfl⟩ := h'
  · exact .inl hc
  · exact h

/-- Where a store writes, the buffer stored into is read no more. -/
theorem Buffer.read_store_congr {size : Nat} (b₁ b₂ : Buffer size) {lo : Nat} {bs : List Byte} {a : Nat}
    (hlo : lo ≤ a) (ha : a < lo + bs.length) : (b₁.store lo bs).read a = (b₂.store lo bs).read a := by
  by_cases hs : a < size
  · have hv : bs[a - lo]? = some bs[a - lo] := List.getElem?_eq_getElem (by omega)
    rw [b₁.read_store_of_inside lo bs a _ hs hlo hv, b₂.read_store_of_inside lo bs a _ hs hlo hv]
  · rw [Buffer.read_eq_none _ (by omega), Buffer.read_eq_none _ (by omega)]

/-- One store, with the same bytes at the same place, into two buffers. -/
theorem Buffer.store_writtenAlike {size : Nat} (b₁ b₂ : Buffer size) (lo : Nat) (bs : List Byte) (a : Nat) :
    WrittenAlike (b₁.read a) ((b₁.store lo bs).read a) (b₂.read a) ((b₂.store lo bs).read a) := by
  by_cases hout : a < lo ∨ lo + bs.length ≤ a
  · exact .inr ⟨b₁.read_store_of_outside lo bs a hout, b₂.read_store_of_outside lo bs a hout⟩
  · exact .inl (Buffer.read_store_congr b₁ b₂ (by omega) (by omega))

/-- Two runs write every one of the seven elements alike, byte by byte in the buffers. -/
structure ElementsAlike (s₁ t₁ s₂ t₂ : State) : Prop where
  buf : ∀ a, WrittenAlike (s₁.buf.read a) (t₁.buf.read a) (s₂.buf.read a) (t₂.buf.read a)
  txt : ∀ a, WrittenAlike (s₁.txt.read a) (t₁.txt.read a) (s₂.txt.read a) (t₂.txt.read a)
  tlen : WrittenAlike s₁.tlen t₁.tlen s₂.tlen t₂.tlen
  crc : WrittenAlike s₁.crc t₁.crc s₂.crc t₂.crc
  status : WrittenAlike s₁.status t₁.status s₂.status t₂.status
  tag : WrittenAlike s₁.tag t₁.tag s₂.tag t₂.tag
  wc : WrittenAlike s₁.wc t₁.wc s₂.wc t₂.wc

namespace ElementsAlike

variable {s₁ t₁ u₁ s₂ t₂ u₂ : State}

/-- Nothing is written. -/
theorem unwritten (s₁ s₂ : State) : ElementsAlike s₁ s₁ s₂ s₂ :=
  ⟨fun _ => .unwritten _ _, fun _ => .unwritten _ _, .unwritten _ _, .unwritten _ _, .unwritten _ _, .unwritten _ _,
    .unwritten _ _⟩

theorem trans (h : ElementsAlike s₁ t₁ s₂ t₂) (h' : ElementsAlike t₁ u₁ t₂ u₂) : ElementsAlike s₁ u₁ s₂ u₂ :=
  ⟨fun a => (h.buf a).trans (h'.buf a), fun a => (h.txt a).trans (h'.txt a), h.tlen.trans h'.tlen, h.crc.trans h'.crc,
    h.status.trans h'.status, h.tag.trans h'.tag, h.wc.trans h'.wc⟩

theorem setBuf (h : ElementsAlike s₁ t₁ s₂ t₂) (lo : Nat) (bs : List Byte) :
    ElementsAlike s₁ (t₁.setBuf (t₁.buf.store lo bs)) s₂ (t₂.setBuf (t₂.buf.store lo bs)) :=
  h.trans { unwritten t₁ t₂ with buf := Buffer.store_writtenAlike _ _ lo bs }

theorem setTxt (h : ElementsAlike s₁ t₁ s₂ t₂) (lo : Nat) (bs : List Byte) :
    ElementsAlike s₁ (t₁.setTxt (t₁.txt.store lo bs)) s₂ (t₂.setTxt (t₂.txt.store lo bs)) :=
  h.trans { unwritten t₁ t₂ with txt := Buffer.store_writtenAlike _ _ lo bs }

theorem setMem (h : ElementsAlike s₁ t₁ s₂ t₂) (sp : Space) (lo : Nat) (bs : List Byte) :
    ElementsAlike s₁ (t₁.setMem sp ((t₁.mem sp).store lo bs)) s₂ (t₂.setMem sp ((t₂.mem sp).store lo bs)) := by
  cases sp with
  | record => exact h.setBuf lo bs
  | text => exact h.setTxt lo bs

theorem setTlen (h : ElementsAlike s₁ t₁ s₂ t₂) (n : BitVec 7) :
    ElementsAlike s₁ (t₁.setTlen n) s₂ (t₂.setTlen n) :=
  { h with tlen := .inl rfl }

theorem setCrc (h : ElementsAlike s₁ t₁ s₂ t₂) (c : Sum) : ElementsAlike s₁ (t₁.setCrc c) s₂ (t₂.setCrc c) :=
  { h with crc := .inl rfl }

theorem setResult (h : ElementsAlike s₁ t₁ s₂ t₂) (st tg : Byte) (w : Word32) :
    ElementsAlike s₁ (t₁.setResult st tg w) s₂ (t₂.setResult st tg w) :=
  { h with status := .inl rfl, tag := .inl rfl, wc := .inl rfl }

/-- `CHECK` of one record. -/
theorem checked (h : ElementsAlike s₁ t₁ s₂ t₂) (r : Record) : ElementsAlike s₁ (t₁.checked r) s₂ (t₂.checked r) := by
  cases hm : r.sumMatches with
  | true =>
    rw [State.checked_of_match _ hm, State.checked_of_match _ hm]
    exact (h.setCrc _).setResult _ _ _
  | false =>
    rw [State.checked_of_mismatch _ hm, State.checked_of_mismatch _ hm]
    exact (h.setCrc _).setResult _ _ _

/-- With the same response, elements written alike are the outputs of 10_state.md R23. -/
theorem sameOutputs (h : ElementsAlike s₁ t₁ s₂ t₂) (r : ResponseWord) :
    SameOutputs s₁ (t₁.answer r) s₂ (t₂.answer r) := by
  refine ⟨rfl, fun sp a => ?_, h.tlen, h.crc, h.status, h.tag, h.wc⟩
  cases sp with
  | record => exact h.buf a
  | text => exact h.txt a

end ElementsAlike

/-! ### Buffers that agree -/

/-- Equal slices of two buffers, byte by byte. -/
theorem Buffer.read_eq_of_slice_eq {size : Nat} {b₁ b₂ : Buffer size} {lo n : Nat} (hn : lo + n ≤ size)
    (h : b₁.slice lo n = b₂.slice lo n) {a : Nat} (hlo : lo ≤ a) (ha : a < lo + n) : b₁.read a = b₂.read a := by
  obtain ⟨bs, hbs⟩ := b₁.exists_slice lo n hn
  obtain ⟨-, h₁⟩ := (b₁.slice_eq_some_iff lo n bs).mp hbs
  obtain ⟨-, h₂⟩ := (b₂.slice_eq_some_iff lo n bs).mp (h ▸ hbs)
  obtain ⟨k, rfl⟩ := Nat.exists_eq_add_of_le hlo
  rw [h₁ k (by omega), h₂ k (by omega)]

/-- Two buffers that read alike at each of their locations are equal. -/
theorem Buffer.eq_of_read_eq_of_lt {size : Nat} {b₁ b₂ : Buffer size} (h : ∀ a < size, b₁.read a = b₂.read a) :
    b₁ = b₂ := by
  refine Buffer.eq_of_read_eq fun a => ?_
  by_cases ha : a < size
  · exact h a ha
  · rw [b₁.read_eq_none (by omega), b₂.read_eq_none (by omega)]

/-- A buffer is its slice of full length. -/
theorem Buffer.eq_of_slice_eq {size : Nat} {b₁ b₂ : Buffer size} (h : b₁.slice 0 size = b₂.slice 0 size) : b₁ = b₂ :=
  Buffer.eq_of_read_eq_of_lt fun _ ha => Buffer.read_eq_of_slice_eq (by omega) h (by omega) (by omega)

/-- A store of full length replaces the buffer. -/
theorem Buffer.store_full {size : Nat} (b₁ b₂ : Buffer size) {bs : List Byte} (h : bs.length = size) :
    b₁.store 0 bs = b₂.store 0 bs :=
  Buffer.eq_of_read_eq_of_lt fun _ ha => Buffer.read_store_congr b₁ b₂ (by omega) (by omega)

/-- The record built around an account identifier has nothing else of the old record (41_pack.md R70). -/
theorem Buffer.store_around_congr {b₁ b₂ : Buffer 36} (h : b₁.slice 2 32 = b₂.slice 2 32) (v₀ v₁ v₃₄ v₃₅ : Byte) :
    (b₁.store 0 [v₀, v₁]).store 34 [v₃₄, v₃₅] = (b₂.store 0 [v₀, v₁]).store 34 [v₃₄, v₃₅] := by
  refine Buffer.eq_of_read_eq_of_lt fun a ha => ?_
  by_cases hsum : 34 ≤ a
  · exact Buffer.read_store_congr _ _ hsum ha
  have below : a < 34 ∨ 34 + [v₃₄, v₃₅].length ≤ a := .inl (by omega)
  rw [Buffer.read_store_of_outside _ _ _ _ below, Buffer.read_store_of_outside _ _ _ _ below]
  by_cases hhead : a < 2
  · exact Buffer.read_store_congr _ _ a.zero_le (by simpa using hhead)
  have above : a < 0 ∨ 0 + [v₀, v₁].length ≤ a := .inr (Nat.not_lt.mp hhead)
  rw [Buffer.read_store_of_outside _ _ _ _ above, Buffer.read_store_of_outside _ _ _ _ above]
  exact Buffer.read_eq_of_slice_eq (by omega) h (by omega) (by omega)

/-! ### Each body, by the inputs it reads -/

theorem packBody_of_illegal {wc : Word32} (hl : legalWorkchain (operandInt wc) = false) (flg : Byte) (s : State) :
    packBody flg wc s = .failed .workchain s := by
  simp [packBody, hl]

theorem packBody_of_legal {wc : Word32} {s : State} {account : List Byte}
    (hl : legalWorkchain (operandInt wc) = true) (ha : s.buf.slice 2 32 = some account) (flg : Byte) :
    packBody flg wc s =
      let r := packRecord flg wc account
      .done ((s.setBuf ((s.buf.store 0 [r.tag, r.wcByte]).store 34 [r.sumHigh, r.sumLow])).setCrc (crc16 r.covered))
        0#32 := by
  simp [packBody, hl, ha, Buffer.putAround_eq]

theorem b64decBody_of_length {s : State} (h : s.tlen.toNat ≠ 48) : b64decBody s = .failed .length s := by
  simp [b64decBody, h]

theorem b64decBody_of_invalid {s : State} {text : List Byte} (h : s.tlen.toNat = 48)
    (ht : s.txt.slice 0 48 = some text) (hv : textValues text = none) : b64decBody s = .failed .alphabet s := by
  simp [b64decBody, h, ht, b64Decode, hv]

/-- The 48 characters of a valid text decode to the 36 bytes of a record. -/
theorem groupBytes_length_of_text {m : Buffer 64} {text : List Byte} {vs : List Sextet}
    (ht : m.slice 0 48 = some text) (hv : textValues text = some vs) : (groupBytes vs).length = 36 :=
  groupBytes_length 12 vs (by rw [(textValues_eq_some hv).1, Buffer.slice_length ht])

theorem b64decBody_of_values {s : State} {text : List Byte} {vs : List Sextet} (h : s.tlen.toNat = 48)
    (ht : s.txt.slice 0 48 = some text) (hv : textValues text = some vs) :
    b64decBody s = .done (s.setBuf (s.buf.store 0 (groupBytes vs))) 0#32 := by
  have hp := s.buf.put_of_le 0 (groupBytes vs) (by simp [groupBytes_length_of_text ht hv])
  simp [b64decBody, h, ht, b64Decode, hv, hp]

theorem checkBody_of_record {s : State} {r : Record} (h : s.buf.record = some r) :
    checkBody s = .ended (if r.sumMatches then .ok else .checksum) 0#32 (s.checked r) := by
  simp only [checkBody, h, present_some]

/-! ### Bodies that end alike -/

/-- Two bodies, run from two states, end with the same code and data and write every element alike. -/
def EndAlike (s₁ s₂ : State) (b₁ b₂ : Ended) : Prop :=
  ∃ e d t₁ t₂, b₁ = .ended e d t₁ ∧ b₂ = .ended e d t₂ ∧ ElementsAlike s₁ t₁ s₂ t₂

/-- They end alike, and where they succeed they leave the same record, as the first bodies of the composites do. -/
def BuildAlike (s₁ s₂ : State) (b₁ b₂ : Ended) : Prop :=
  ∃ e d t₁ t₂, b₁ = .ended e d t₁ ∧ b₂ = .ended e d t₂ ∧ ElementsAlike s₁ t₁ s₂ t₂ ∧ (e = .ok → t₁.buf = t₂.buf)

theorem BuildAlike.endAlike {s₁ s₂ : State} {b₁ b₂ : Ended} (h : BuildAlike s₁ s₂ b₁ b₂) : EndAlike s₁ s₂ b₁ b₂ := by
  obtain ⟨e, d, t₁, t₂, h₁, h₂, ht, -⟩ := h
  exact ⟨e, d, t₁, t₂, h₁, h₂, ht⟩

/-- A composite ends alike when its second body reads only the record that its first body left. -/
theorem BuildAlike.andThen {s₁ s₂ : State} {b₁ b₂ : Ended} {k : State → Ended} (h : BuildAlike s₁ s₂ b₁ b₂)
    (hk : ∀ t₁ t₂ : State, t₁.buf = t₂.buf → EndAlike t₁ t₂ (k t₁) (k t₂)) :
    EndAlike s₁ s₂ (b₁.andThen k) (b₂.andThen k) := by
  obtain ⟨e, d, t₁, t₂, rfl, rfl, ht, hbuf⟩ := h
  by_cases he : e = .ok
  · subst he
    obtain ⟨e', d', u₁, u₂, h₁, h₂, hu⟩ := hk t₁ t₂ (hbuf rfl)
    exact ⟨e', d', u₁, u₂, h₁, h₂, ht.trans hu⟩
  · exact ⟨e, d, t₁, t₂, Ended.andThen_failed he .., Ended.andThen_failed he .., ht⟩

section
variable {s₁ s₂ : State}

theorem rdrBody_alike (reg : Byte) (h : s₁.register reg.toNat = s₂.register reg.toNat) :
    EndAlike s₁ s₂ (rdrBody reg s₁) (rdrBody reg s₂) := by
  simp only [rdrBody, operandNat, h]
  cases s₂.register reg.toNat <;> exact ⟨_, _, _, _, rfl, rfl, .unwritten _ _⟩

theorem storeByte_alike (sp : Space) (idx val : Byte) (s₁ s₂ : State) :
    EndAlike s₁ s₂ (storeByte sp idx val s₁) (storeByte sp idx val s₂) := by
  obtain hin | hout := Nat.lt_or_ge idx.toNat sp.size
  · exact ⟨_, _, _, _, storeByte_of_inside sp idx val s₁ hin, storeByte_of_inside sp idx val s₂ hin,
      (ElementsAlike.unwritten s₁ s₂).setMem sp _ _⟩
  · exact ⟨_, _, _, _, storeByte_of_outside sp idx val s₁ hout, storeByte_of_outside sp idx val s₂ hout,
      .unwritten s₁ s₂⟩

theorem loadByte_alike (sp : Space) (idx : Byte) (h : s₁.readByte sp idx.toNat = s₂.readByte sp idx.toNat) :
    EndAlike s₁ s₂ (loadByte sp idx s₁) (loadByte sp idx s₂) := by
  obtain ⟨hout, h₁⟩ | ⟨hin, v, hv, h₁⟩ := loadByte_cases sp idx s₁
  · exact ⟨_, _, _, _, h₁, loadByte_of_outside sp idx s₂ hout, .unwritten s₁ s₂⟩
  · exact ⟨_, _, _, _, h₁, loadByte_of_read sp idx v s₂ hin (h ▸ hv), .unwritten s₁ s₂⟩

theorem setlenBody_alike (len : Byte) (s₁ s₂ : State) : EndAlike s₁ s₂ (setlenBody len s₁) (setlenBody len s₂) := by
  unfold setlenBody
  split
  · exact ⟨_, _, _, _, rfl, rfl, (ElementsAlike.unwritten s₁ s₂).setTlen _⟩
  · exact ⟨_, _, _, _, rfl, rfl, .unwritten s₁ s₂⟩

theorem packBody_alike (flg : Byte) (wc : Word32) (h : s₁.buf.slice 2 32 = s₂.buf.slice 2 32) :
    BuildAlike s₁ s₂ (packBody flg wc s₁) (packBody flg wc s₂) := by
  cases hl : legalWorkchain (operandInt wc) with
  | false => exact ⟨_, _, _, _, packBody_of_illegal hl flg s₁, packBody_of_illegal hl flg s₂, .unwritten s₁ s₂, nofun⟩
  | true =>
    obtain ⟨account, ha⟩ := s₁.buf.exists_slice 2 32 (by decide)
    exact ⟨_, _, _, _, packBody_of_legal hl ha flg, packBody_of_legal hl (h ▸ ha) flg,
      (((ElementsAlike.unwritten s₁ s₂).setBuf _ _).setBuf _ _).setCrc _,
      fun _ => Buffer.store_around_congr h _ _ _ _⟩

theorem checkBody_alike (h : s₁.buf = s₂.buf) : EndAlike s₁ s₂ (checkBody s₁) (checkBody s₂) := by
  obtain ⟨r, hr, h₁⟩ := checkBody_eq s₁
  exact ⟨_, _, _, _, h₁, checkBody_of_record (h ▸ hr), (ElementsAlike.unwritten s₁ s₂).checked r⟩

theorem b64encBody_alike (h : s₁.buf = s₂.buf) : EndAlike s₁ s₂ (b64encBody s₁) (b64encBody s₂) := by
  obtain ⟨bytes, hb, h₁⟩ := b64encBody_eq s₁
  obtain ⟨bytes₂, hb₂, h₂⟩ := b64encBody_eq s₂
  obtain rfl : bytes = bytes₂ := by simpa [h, hb₂, eq_comm] using hb
  exact ⟨_, _, _, _, h₁, h₂, ((ElementsAlike.unwritten s₁ s₂).setTxt _ _).setTlen _⟩

theorem b64decBody_alike (hl : s₁.tlen = s₂.tlen) (ht : s₁.txt.slice 0 48 = s₂.txt.slice 0 48) :
    BuildAlike s₁ s₂ (b64decBody s₁) (b64decBody s₂) := by
  obtain ⟨hne, h₁⟩ | ⟨h48, text, hs, hv, h₁⟩ | ⟨h48, text, vs, hs, hv, h₁⟩ := b64decBody_cases s₁
  · exact ⟨_, _, _, _, h₁, b64decBody_of_length (hl ▸ hne), .unwritten s₁ s₂, nofun⟩
  · exact ⟨_, _, _, _, h₁, b64decBody_of_invalid (hl ▸ h48) (ht ▸ hs) hv, .unwritten s₁ s₂, nofun⟩
  · exact ⟨_, _, _, _, h₁, b64decBody_of_values (hl ▸ h48) (ht ▸ hs) hv, (ElementsAlike.unwritten s₁ s₂).setBuf _ _,
      fun _ => Buffer.store_full _ _ (groupBytes_length_of_text hs hv)⟩

theorem decodeTextBody_alike (hl : s₁.tlen = s₂.tlen) (ht : s₁.txt.slice 0 48 = s₂.txt.slice 0 48) :
    BuildAlike s₁ s₂ (decodeTextBody s₁) (decodeTextBody s₂) := by
  obtain ⟨e, d, t₁, t₂, h₁, h₂, halike, hbuf⟩ := b64decBody_alike hl ht
  by_cases he : e = .ok
  · subst he
    exact ⟨_, _, _, _, decodeTextBody_of_done h₁, decodeTextBody_of_done h₂, halike, hbuf⟩
  · exact ⟨_, _, _, _, decodeTextBody_of_failed he h₁, decodeTextBody_of_failed he h₂, halike.setResult _ _ _,
      fun hok => absurd hok he⟩

theorem commandBody_alike {i : Instr} (h : SameInputs i s₁ s₂) :
    EndAlike s₁ s₂ (commandBody i s₁) (commandBody i s₂) := by
  have same : ElementsAlike s₁ s₁ s₂ s₂ := .unwritten s₁ s₂
  cases i with
  | nop => exact ⟨_, _, _, _, rfl, rfl, same⟩
  | rdr reg => exact rdrBody_alike reg h
  | wrb idx val | wrt idx val => exact storeByte_alike _ idx val s₁ s₂
  | rdb idx | rdt idx => exact loadByte_alike _ idx h
  | setlen len => exact setlenBody_alike len s₁ s₂
  | crcclr => exact ⟨_, _, _, _, rfl, rfl, same.setCrc _⟩
  | crcput val =>
    have hcrc : s₁.crc = s₂.crc := h
    exact ⟨_, _, _, _, rfl, rfl, hcrc ▸ same.setCrc _⟩
  | crcfin =>
    have hcrc : s₁.crc = s₂.crc := h
    exact ⟨_, _, _, _, rfl, rfl, hcrc ▸ same.setCrc _⟩
  | pack flg wc => exact (packBody_alike flg wc h).endAlike
  | check => exact checkBody_alike (Buffer.eq_of_slice_eq h)
  | b64enc => exact b64encBody_alike (Buffer.eq_of_slice_eq h)
  | b64dec =>
    obtain ⟨hlen, htext⟩ := h
    exact (b64decBody_alike hlen htext).endAlike
  | encode flg wc => exact (packBody_alike flg wc h).andThen fun _ _ => b64encBody_alike
  | decode =>
    obtain ⟨hlen, htext⟩ := h
    exact (decodeTextBody_alike hlen htext).andThen fun _ _ => checkBody_alike

end

/-- Settles O54: the bodies end alike, and the response is how they end. -/
theorem commandsReadOnlyTheirInputs : Obligations.CommandsReadOnlyTheirInputs := by
  intro i s₁ s₂ t₁ t₂ hin hexec₁ hexec₂
  obtain ⟨e, d, u₁, u₂, h₁, h₂, hu⟩ := commandBody_alike hin
  rw [exec_eq_finish_commandBody, h₁, Ended.finish_ended] at hexec₁
  rw [exec_eq_finish_commandBody, h₂, Ended.finish_ended] at hexec₂
  obtain rfl : u₁.answer (responseWord e d) = t₁ := by simpa using hexec₁
  obtain rfl : u₂.answer (responseWord e d) = t₂ := by simpa using hexec₂
  exact hu.sameOutputs _

end Sys2Proof.Machine
end

section
/-! The command word (spec/30_encoding.md R40 to R47). The idea: a word is the `c64` of its fields, so a decoded word
and a word that matches a row of the table are both the encoding of a command whose operands are the word's own fields.
Decoding, encoding and the table are then compared through that one command. -/

namespace Sys2Proof

/-! ### What the decoder's field tests ask -/

@[simp] theorem noA_eq_ok_iff {w : CommandWord} {k : Except Illegal Instr} {i : Instr} :
    noA w k = .ok i ↔ fieldA w = 0#8 ∧ k = .ok i := by
  by_cases h : fieldA w = 0#8 <;> simp [noA, h]

@[simp] theorem noB_eq_ok_iff {w : CommandWord} {k : Except Illegal Instr} {i : Instr} :
    noB w k = .ok i ↔ fieldB w = 0#8 ∧ k = .ok i := by
  by_cases h : fieldB w = 0#8 <;> simp [noB, h]

@[simp] theorem noImm_eq_ok_iff {w : CommandWord} {k : Except Illegal Instr} {i : Instr} :
    noImm w k = .ok i ↔ fieldImm w = 0#32 ∧ k = .ok i := by
  by_cases h : fieldImm w = 0#32 <;> simp [noImm, h]

@[simp] theorem flagsInA_eq_ok_iff {w : CommandWord} {k : Except Illegal Instr} {i : Instr} :
    flagsInA w k = .ok i ↔ flagsLegal (fieldA w) = true ∧ k = .ok i := by
  by_cases h : flagsLegal (fieldA w) = true <;> simp [flagsInA, h]

/-- A word with the given fields is their `c64`. -/
theorem c64_eq_of_fields {w : CommandWord} {op a b z : Byte} {imm : Word32} (hop : fieldOp w = op)
    (ha : fieldA w = a) (hb : fieldB w = b) (hz : fieldZ w = z) (himm : fieldImm w = imm) :
    c64 op a b z imm = w := by
  subst hop ha hb hz himm
  exact c64_fields w

/-! ### Decoding and encoding are inverse -/

/-- A command that can be spelled is read back from its word: the operands stand in their fields and every other field
is zero (30_encoding.md R41, R44). -/
theorem decode_encode {i : Instr} (h : i.wellFormed = true) : decode (encode i) = .ok i := by
  cases i with
  | nop | crcclr | crcfin | check | b64enc | b64dec | decode | rdr _ | rdb _ | rdt _ | setlen _ | crcput _ | wrb _ _
    | wrt _ _ => simp [encode, decode]
  | pack flg wc | encode flg wc =>
    have legal : flagsLegal flg = true := h
    simp [encode, decode, legal]

/-- A word that decodes is the word of its command: each arm of the decoder has tested the opcode and all the fields
that the command does not use. -/
theorem wellFormed_and_encode_of_decode {w : CommandWord} {i : Instr} (h : decode w = .ok i) :
    i.wellFormed = true ∧ encode i = w := by
  have hz : fieldZ w = 0#8 := by_contra fun hz => by simp [decode, hz] at h
  rw [decode, if_neg (not_not.mpr hz)] at h
  split at h <;> simp only [noA_eq_ok_iff, noB_eq_ok_iff, noImm_eq_ok_iff, flagsInA_eq_ok_iff, Except.ok.injEq,
    reduceCtorEq] at h
  -- the arms, numbered in the order of the decoder: no operand
  case h_1 hop | h_8 hop | h_10 hop | h_12 hop | h_13 hop | h_14 hop | h_16 hop =>
    obtain ⟨ha, hb, himm, rfl⟩ := h
    exact ⟨rfl, c64_eq_of_fields (BitVec.eq_of_toNat_eq hop) ha hb hz himm⟩
  -- operand `a`
  case h_2 hop | h_4 hop | h_6 hop | h_7 hop =>
    obtain ⟨hb, himm, rfl⟩ := h
    exact ⟨rfl, c64_eq_of_fields (BitVec.eq_of_toNat_eq hop) rfl hb hz himm⟩
  -- operands `a` and `b`
  case h_3 hop | h_5 hop =>
    obtain ⟨himm, rfl⟩ := h
    exact ⟨rfl, c64_eq_of_fields (BitVec.eq_of_toNat_eq hop) rfl rfl hz himm⟩
  -- operand `b`
  case h_9 hop =>
    obtain ⟨ha, himm, rfl⟩ := h
    exact ⟨rfl, c64_eq_of_fields (BitVec.eq_of_toNat_eq hop) ha rfl hz himm⟩
  -- flags in `a` and a workchain in `imm`
  case h_11 hop | h_15 hop =>
    obtain ⟨legal, hb, rfl⟩ := h
    exact ⟨legal, c64_eq_of_fields (BitVec.eq_of_toNat_eq hop) rfl hb hz rfl⟩

/-- The decoder accepts exactly the words of the commands that can be spelled. -/
theorem decode_eq_ok_iff {w : CommandWord} {i : Instr} :
    decode w = .ok i ↔ i.wellFormed = true ∧ encode i = w :=
  ⟨wellFormed_and_encode_of_decode, fun ⟨legal, word⟩ => word ▸ decode_encode legal⟩

/-! ### The mask and match table -/

/-- The command of the same row with the operands that a word holds (30_encoding.md R42). -/
def Instr.withOperandsOf (w : CommandWord) : Instr → Instr
  | .nop => .nop
  | .rdr _ => .rdr (fieldA w)
  | .wrb _ _ => .wrb (fieldA w) (fieldB w)
  | .rdb _ => .rdb (fieldA w)
  | .wrt _ _ => .wrt (fieldA w) (fieldB w)
  | .rdt _ => .rdt (fieldA w)
  | .setlen _ => .setlen (fieldA w)
  | .crcclr => .crcclr
  | .crcput _ => .crcput (fieldB w)
  | .crcfin => .crcfin
  | .pack _ _ => .pack (fieldA w) (fieldImm w)
  | .check => .check
  | .b64enc => .b64enc
  | .b64dec => .b64dec
  | .encode _ _ => .encode (fieldA w) (fieldImm w)
  | .decode => .decode

@[simp] theorem rowOf_withOperandsOf (w : CommandWord) (i : Instr) : rowOf (i.withOperandsOf w) = rowOf i := by
  cases i <;> rfl

/-- The table holds the rows of the commands and no others. -/
theorem mem_opTable_iff {r : Row} : r ∈ opTable ↔ ∃ i, r = rowOf i := by
  have rows : ∀ r ∈ opTable, ∃ i, r = rowOf i := by
    simp only [opTable, List.mem_cons, List.not_mem_nil, or_false, forall_eq_or_imp, forall_eq]
    and_intros <;> exact ⟨_, rfl⟩
  refine ⟨rows r, ?_⟩
  rintro ⟨i, rfl⟩
  cases i <;> simp [opTable, rowOf]

/-- The word of a command that can be spelled matches the command's row. -/
theorem encode_matches_rowOf {i : Instr} (h : i.wellFormed = true) : encode i &&& (rowOf i).mask = (rowOf i).pattern := by
  have inRow : Laws.EncodeInRow.Statement i := by
    cases i with
    | nop => exact Laws.EncodeInRow.nop
    | rdr reg => exact Laws.EncodeInRow.rdr reg
    | wrb idx val => exact Laws.EncodeInRow.wrb idx val
    | rdb idx => exact Laws.EncodeInRow.rdb idx
    | wrt idx val => exact Laws.EncodeInRow.wrt idx val
    | rdt idx => exact Laws.EncodeInRow.rdt idx
    | setlen len => exact Laws.EncodeInRow.setlen len
    | crcclr => exact Laws.EncodeInRow.crcclr
    | crcput val => exact Laws.EncodeInRow.crcput val
    | crcfin => exact Laws.EncodeInRow.crcfin
    | pack flg wc => exact Laws.EncodeInRow.pack flg wc
    | check => exact Laws.EncodeInRow.check
    | b64enc => exact Laws.EncodeInRow.b64enc
    | b64dec => exact Laws.EncodeInRow.b64dec
    | encode flg wc => exact Laws.EncodeInRow.encode flg wc
    | decode => exact Laws.EncodeInRow.decode
  exact beq_iff_eq.mp (inRow h)

theorem decode_matches_rowOf {w : CommandWord} {i : Instr} (h : decode w = .ok i) :
    w &&& (rowOf i).mask = (rowOf i).pattern := by
  obtain ⟨legal, rfl⟩ := decode_eq_ok_iff.mp h
  exact encode_matches_rowOf legal

/-- A row is matched field by field. -/
theorem Row.fields_of_match {r : Row} {w : CommandWord} (h : w &&& r.mask = r.pattern) :
    fieldOp w &&& fieldOp r.mask = fieldOp r.pattern ∧ fieldA w &&& fieldA r.mask = fieldA r.pattern ∧
      fieldB w &&& fieldB r.mask = fieldB r.pattern ∧ fieldZ w &&& fieldZ r.mask = fieldZ r.pattern ∧
      fieldImm w &&& fieldImm r.mask = fieldImm r.pattern := by
  rwa [← c64_fields w, ← c64_fields r.mask, ← c64_fields r.pattern, c64_and, c64_inj] at h

/-- A field under a mask of ones is the pattern's. -/
theorem eq_of_and_ones {n : Nat} {x m p q : BitVec n} (h : x &&& m = p) (ones : m = BitVec.allOnes n) (hp : p = q) :
    x = q := by
  rw [← hp, ← h, ones, BitVec.and_allOnes]

/-- A word that matches the row of a command is the word of that command with the word's own operands: the mask has
ones in the opcode, in `z` and in every field the command does not use. -/
theorem wellFormed_and_encode_of_match {j : Instr} {w : CommandWord} (h : w &&& (rowOf j).mask = (rowOf j).pattern) :
    (j.withOperandsOf w).wellFormed = true ∧ encode (j.withOperandsOf w) = w := by
  obtain ⟨hop, ha, hb, hz, himm⟩ := Row.fields_of_match h
  cases j <;> simp only [rowOf] at hop ha hb hz himm
  case nop | crcclr | crcfin | check | b64enc | b64dec | decode =>
    exact ⟨rfl, c64_eq_of_fields (eq_of_and_ones hop rfl rfl) (eq_of_and_ones ha rfl rfl) (eq_of_and_ones hb rfl rfl)
      (eq_of_and_ones hz rfl rfl) (eq_of_and_ones himm rfl rfl)⟩
  case rdr | rdb | rdt | setlen =>
    exact ⟨rfl, c64_eq_of_fields (eq_of_and_ones hop rfl rfl) rfl (eq_of_and_ones hb rfl rfl)
      (eq_of_and_ones hz rfl rfl) (eq_of_and_ones himm rfl rfl)⟩
  case wrb | wrt =>
    exact ⟨rfl, c64_eq_of_fields (eq_of_and_ones hop rfl rfl) rfl rfl (eq_of_and_ones hz rfl rfl)
      (eq_of_and_ones himm rfl rfl)⟩
  case crcput =>
    exact ⟨rfl, c64_eq_of_fields (eq_of_and_ones hop rfl rfl) (eq_of_and_ones ha rfl rfl) rfl
      (eq_of_and_ones hz rfl rfl) (eq_of_and_ones himm rfl rfl)⟩
  case pack | encode =>
    have legal : fieldA w &&& 0xFC#8 = 0x00#8 := ha
    exact ⟨beq_iff_eq.mpr legal, c64_eq_of_fields (eq_of_and_ones hop rfl rfl) rfl (eq_of_and_ones hb rfl rfl)
      (eq_of_and_ones hz rfl rfl) rfl⟩

/-- A word that matches a row decodes, to that row's command with the operands in the word. -/
theorem decode_of_match {j : Instr} {w : CommandWord} (h : w &&& (rowOf j).mask = (rowOf j).pattern) :
    decode w = .ok (j.withOperandsOf w) :=
  decode_eq_ok_iff.mpr (wellFormed_and_encode_of_match h)

/-- A word spells a command exactly when it matches a row of the table (30_encoding.md R43). -/
theorem decodes_iff_matches {w : CommandWord} :
    (∃ i, decode w = .ok i) ↔ ∃ r ∈ opTable, w &&& r.mask = r.pattern := by
  constructor
  · rintro ⟨i, h⟩
    exact ⟨rowOf i, mem_opTable_iff.mpr ⟨i, rfl⟩, decode_matches_rowOf h⟩
  · rintro ⟨r, hr, h⟩
    obtain ⟨j, rfl⟩ := mem_opTable_iff.mp hr
    exact ⟨_, decode_of_match h⟩

/-- Settles O2, command by command. -/
theorem decodeOfEncodeIsTheCommand : Obligations.DecodeOfEncodeIsTheCommand :=
  fun _ => decode_encode

/-- Settles O3, by the arms of the decoder. -/
theorem everyDecodedWordIsTheCommandsOwn : Obligations.EveryDecodedWordIsTheCommandsOwn :=
  fun _ _ => wellFormed_and_encode_of_decode

/-- Settles O4: both sides say that the word is the encoding of a command that can be spelled. -/
theorem decodeAcceptsExactlyTheTable : Obligations.DecodeAcceptsExactlyTheTable :=
  ⟨fun _ => decodes_iff_matches, fun _ _ => decode_matches_rowOf⟩

/-- Settles O5: a word decodes to one command at most, and two rows it matches are both that command's row. -/
theorem illegalWordChangesNothing : Obligations.IllegalWordChangesNothing := by
  constructor
  · intro w r r' hr hr' h h'
    obtain ⟨j, rfl⟩ := mem_opTable_iff.mp hr
    obtain ⟨j', rfl⟩ := mem_opTable_iff.mp hr'
    have same : j.withOperandsOf w = j'.withOperandsOf w :=
      Except.ok.inj ((decode_of_match h).symm.trans (decode_of_match h'))
    calc rowOf j = rowOf (j.withOperandsOf w) := (rowOf_withOperandsOf w j).symm
      _ = rowOf (j'.withOperandsOf w) := congrArg rowOf same
      _ = rowOf j' := rowOf_withOperandsOf w j'
  · intro s w none
    cases hd : decode w with
    | ok i => exact absurd (decodes_iff_matches.mp ⟨i, hd⟩) none
    | error e => rw [Machine.runWord_of_error hd, Machine.State.fail_illegal]

/-- Settles O1: the six words are the encodings of commands that can be spelled, and the two others have one illegal
field each. -/
theorem wordsFromTheFieldTableDecode : Obligations.WordsFromTheFieldTableDecode :=
  ⟨decode_eq_ok_iff.mpr ⟨rfl, rfl⟩, decode_eq_ok_iff.mpr ⟨rfl, rfl⟩, decode_eq_ok_iff.mpr ⟨rfl, rfl⟩,
    decode_eq_ok_iff.mpr ⟨rfl, rfl⟩, decode_eq_ok_iff.mpr ⟨rfl, rfl⟩, decode_eq_ok_iff.mpr ⟨rfl, rfl⟩,
    by decide, by decide⟩

end Sys2Proof
end

section
/-! What the encodings beside the command word say (spec/30_encoding.md R45 to R57): the tag byte bit by bit, the
workchain byte by its cases, the characters by the ranges of their codes, and a response by how its body ends. -/

namespace Sys2Proof.Machine

/-! ### The tag byte -/

/-- A tag byte depends on the two flags only, in the form of 30_encoding.md R51. -/
theorem composeTag_bits (flg : Byte) :
    (composeTag flg).getLsbD 7 = flg.getLsbD 1 ∧ (composeTag flg).getLsbD 6 = !flg.getLsbD 0 ∧
      (composeTag flg).extractLsb' 0 6 = 0b010001#6 := by
  unfold composeTag flagB flagT
  generalize flg.getLsbD 0 = bounceable
  generalize flg.getLsbD 1 = testnet
  revert bounceable testnet
  decide

theorem tagIsTestnet_eq (tag : Byte) : tagIsTestnet tag = tag.getLsbD 7 := by
  have h : tag &&& 0x80#8 = if tag.getLsbD 7 then 0x80#8 else 0x00#8 := BitVec.and_twoPow tag 7
  unfold tagIsTestnet
  rw [h]
  cases tag.getLsbD 7 <;> rfl

theorem tagIsBounceable_eq (tag : Byte) : tagIsBounceable tag = !tag.getLsbD 6 := by
  have h : tag &&& 0x40#8 = if tag.getLsbD 6 then 0x40#8 else 0x00#8 := BitVec.and_twoPow tag 6
  unfold tagIsBounceable
  rw [h]
  cases tag.getLsbD 6 <;> rfl

/-- Settles O32: each clause is about two bits, and the four tag bytes are the four values of them. -/
theorem tagByteComposesAndReads : Obligations.TagByteComposesAndReads :=
  ⟨composeTag_bits, fun tag => ⟨tagIsTestnet_eq tag, tagIsBounceable_eq tag⟩, by decide⟩

/-! ### The workchain byte -/

/-- A legal workchain, as an unsigned number: -1 has its own encoding, the others are their values (41_pack.md R71). -/
theorem legalWc_iff (wc : Word32) : LegalWc wc ↔ wc = 0xFFFFFFFF#32 ∨ wc.toNat ≤ 254 := by
  have minusOne : wc = 0xFFFFFFFF#32 ↔ wc.toNat = 0xFFFFFFFF := BitVec.toNat_inj.symm
  rw [LegalWc, minusOne, BitVec.toInt_eq_toNat_cond]
  have := wc.isLt
  split <;> omega

theorem readWorkchain_of_ne {b : Byte} (h : b ≠ 0xFF#8) : readWorkchain b = b.setWidth 32 := if_neg h

theorem composeWorkchain_of_le {wc : Word32} (h : wc.toNat ≤ 254) : composeWorkchain wc = wc.setWidth 8 := by
  have notMinusOne : wc.toInt ≠ -1 := by
    rw [BitVec.toInt_eq_toNat_of_lt (by omega)]
    omega
  exact if_neg notMinusOne

/-- Settles O33: -1 and 0xFF are each other's, and below them byte and workchain are the same number. -/
theorem workchainByteRoundTrip : Obligations.WorkchainByteRoundTrip := by
  constructor
  · intro wc legal
    obtain rfl | hle := (legalWc_iff wc).mp legal
    · rfl
    · have hb : (wc.setWidth 8 : Byte).toNat = wc.toNat := by
        rw [BitVec.toNat_setWidth]
        omega
      rw [composeWorkchain_of_le hle, readWorkchain_of_ne fun h => by simp [h] at hb; omega]
      exact BitVec.eq_of_toNat_eq (by rw [BitVec.toNat_setWidth, hb]; omega)
  · intro b
    refine ⟨(legalWc_iff _).mpr (readWorkchain_range b), ?_⟩
    by_cases hb : b = 0xFF#8
    · subst hb
      rfl
    · have hne : b.toNat ≠ 255 := fun h => hb (BitVec.eq_of_toNat_eq h)
      have hw : (b.setWidth 32 : Word32).toNat = b.toNat := by
        rw [BitVec.toNat_setWidth]
        omega
      rw [readWorkchain_of_ne hb, composeWorkchain_of_le (by omega)]
      exact BitVec.eq_of_toNat_eq (by rw [BitVec.toNat_setWidth, hw]; omega)

/-! ### The characters -/

/-- The encoding table by the ranges of its values (30_encoding.md R57). -/
theorem b64chr_eq_iff (v : Sextet) (c : Byte) :
    b64chr v = c ↔
      (v.toNat ≤ 25 ∧ c.toNat = v.toNat + 0x41) ∨
      (26 ≤ v.toNat ∧ v.toNat ≤ 51 ∧ c.toNat = v.toNat - 26 + 0x61) ∨
      (52 ≤ v.toNat ∧ v.toNat ≤ 61 ∧ c.toNat = v.toNat - 52 + 0x30) ∨
      (v.toNat = 62 ∧ c.toNat = 0x2D) ∨ (v.toNat = 63 ∧ c.toNat = 0x5F) := by
  have := v.isLt
  unfold b64chr
  simp only [← BitVec.toNat_inj (y := c)]
  repeat' split
  all_goals
    simp only [BitVec.toNat_ofNat]
    omega

/-- The decoding table by the ranges of the character codes (30_encoding.md R56). -/
theorem b64val_eq_some_iff (c : Byte) (v : Sextet) :
    b64val c = some v ↔
      (0x41 ≤ c.toNat ∧ c.toNat ≤ 0x5A ∧ v.toNat = c.toNat - 0x41) ∨
      (0x61 ≤ c.toNat ∧ c.toNat ≤ 0x7A ∧ v.toNat = c.toNat - 0x61 + 26) ∨
      (0x30 ≤ c.toNat ∧ c.toNat ≤ 0x39 ∧ v.toNat = c.toNat - 0x30 + 52) ∨
      ((c.toNat = 0x2D ∨ c.toNat = 0x2B) ∧ v.toNat = 62) ∨ ((c.toNat = 0x5F ∨ c.toNat = 0x2F) ∧ v.toNat = 63) := by
  have := v.isLt
  unfold b64val
  simp only
  repeat' split
  all_goals
    simp only [Option.some.injEq, reduceCtorEq, false_iff, ← BitVec.toNat_inj (y := v), BitVec.toNat_ofNat]
    omega

/-- The two tables agree, but for the two synonyms that only the decoding table has. -/
theorem b64val_eq_some_iff_b64chr (c : Byte) (v : Sextet) :
    b64val c = some v ↔ b64chr v = c ∨ (c = 0x2B#8 ∧ v = 62#6) ∨ (c = 0x2F#8 ∧ v = 63#6) := by
  constructor
  · intro h
    obtain ⟨_, _, _⟩ | ⟨_, _, _⟩ | ⟨_, _, _⟩ | ⟨minus | plus, hv⟩ | ⟨underscore | slash, hv⟩ :=
      (b64val_eq_some_iff c v).mp h
    · exact .inl ((b64chr_eq_iff v c).mpr (.inl ⟨by omega, by omega⟩))
    · exact .inl ((b64chr_eq_iff v c).mpr (.inr (.inl ⟨by omega, by omega, by omega⟩)))
    · exact .inl ((b64chr_eq_iff v c).mpr (.inr (.inr (.inl ⟨by omega, by omega, by omega⟩))))
    · exact .inl ((b64chr_eq_iff v c).mpr (.inr (.inr (.inr (.inl ⟨hv, minus⟩)))))
    · exact .inr (.inl ⟨BitVec.eq_of_toNat_eq plus, BitVec.eq_of_toNat_eq hv⟩)
    · exact .inl ((b64chr_eq_iff v c).mpr (.inr (.inr (.inr (.inr ⟨hv, underscore⟩)))))
    · exact .inr (.inr ⟨BitVec.eq_of_toNat_eq slash, BitVec.eq_of_toNat_eq hv⟩)
  · rintro (h | ⟨rfl, rfl⟩ | ⟨rfl, rfl⟩)
    · refine (b64val_eq_some_iff c v).mpr ?_
      obtain ⟨_, _⟩ | ⟨_, _, _⟩ | ⟨_, _, _⟩ | ⟨hv, minus⟩ | ⟨hv, underscore⟩ := (b64chr_eq_iff v c).mp h
      · exact .inl ⟨by omega, by omega, by omega⟩
      · exact .inr (.inl ⟨by omega, by omega, by omega⟩)
      · exact .inr (.inr (.inl ⟨by omega, by omega, by omega⟩))
      · exact .inr (.inr (.inr (.inl ⟨.inl minus, hv⟩)))
      · exact .inr (.inr (.inr (.inr ⟨.inl underscore, hv⟩)))
    · rfl
    · rfl

/-- Settles O34: the table is written out, and the two directions are compared range by range. -/
theorem characterTablesAreThoseOfTheSpec : Obligations.CharacterTablesAreThoseOfTheSpec :=
  ⟨by decide, b64val_eq_some_iff_b64chr, fun v => (b64val_eq_some_iff_b64chr _ v).mpr (.inl rfl)⟩

/-! ### The form of a response -/

/-- The body ended with data 0. -/
def Ended.Silent (b : Ended) : Prop := ∃ e t, b = .ended e 0#32 t

theorem Ended.silent_zero (e : ErrCode) (t : State) : (Ended.ended e 0#32 t).Silent := ⟨e, t, rfl⟩

/-- A composite ends with data 0 when its parts do. -/
theorem Ended.Silent.andThen {b : Ended} (hb : b.Silent) {k : State → Ended} (hk : ∀ t, (k t).Silent) :
    (b.andThen k).Silent := by
  obtain ⟨e, t, rfl⟩ := hb
  by_cases he : e = .ok
  · subst he
    exact hk t
  · rw [Ended.andThen_failed he]
    exact Ended.silent_zero e t

theorem storeByte_silent (sp : Space) (idx val : Byte) (s : State) : (storeByte sp idx val s).Silent := by
  obtain ⟨-, h⟩ | ⟨-, h⟩ := storeByte_cases sp idx val s <;> exact ⟨_, _, h⟩

theorem setlenBody_silent (len : Byte) (s : State) : (setlenBody len s).Silent := by
  obtain ⟨-, h⟩ | ⟨-, h⟩ := setlenBody_cases len s <;> exact ⟨_, _, h⟩

theorem packBody_silent (flg : Byte) (wc : Word32) (s : State) : (packBody flg wc s).Silent := by
  obtain ⟨-, h⟩ | ⟨-, _, _, -, -, h⟩ := packBody_cases flg wc s <;> exact ⟨_, _, h⟩

theorem checkBody_silent (s : State) : (checkBody s).Silent := by
  obtain ⟨_, -, h⟩ := checkBody_eq s
  exact ⟨_, _, h⟩

theorem b64encBody_silent (s : State) : (b64encBody s).Silent := by
  obtain ⟨_, -, h⟩ := b64encBody_eq s
  exact ⟨_, _, h⟩

theorem b64decBody_silent (s : State) : (b64decBody s).Silent := by
  obtain ⟨-, h⟩ | ⟨-, _, -, -, h⟩ | ⟨-, _, _, -, -, h⟩ := b64decBody_cases s <;> exact ⟨_, _, h⟩

theorem decodeTextBody_silent (s : State) : (decodeTextBody s).Silent := by
  obtain ⟨_, -, h⟩ | ⟨_, h⟩ := decodeTextBody_cases s <;> exact ⟨_, _, h⟩

/-- Every command but the three that read ends with data 0. -/
theorem commandBody_silent {i : Instr} (hrdr : ∀ reg, i ≠ .rdr reg) (hrdb : ∀ idx, i ≠ .rdb idx)
    (hrdt : ∀ idx, i ≠ .rdt idx) (s : State) : (commandBody i s).Silent := by
  cases i with
  | rdr reg => exact absurd rfl (hrdr reg)
  | rdb idx => exact absurd rfl (hrdb idx)
  | rdt idx => exact absurd rfl (hrdt idx)
  | nop | crcclr | crcput val | crcfin => exact Ended.silent_zero _ _
  | wrb idx val | wrt idx val => exact storeByte_silent _ idx val s
  | setlen len => exact setlenBody_silent len s
  | pack flg wc => exact packBody_silent flg wc s
  | check => exact checkBody_silent s
  | b64enc => exact b64encBody_silent s
  | b64dec => exact b64decBody_silent s
  | encode flg wc => exact (packBody_silent flg wc s).andThen b64encBody_silent
  | decode => exact (decodeTextBody_silent s).andThen checkBody_silent

/-- The response to a body that ended with data 0 has data 0. -/
theorem responseData_of_silent {i : Instr} {s t : State} {r : ResponseWord} (hs : (commandBody i s).Silent)
    (h : exec i s = .next t) (hr : t.response = some r) : responseData r = 0#32 := by
  obtain ⟨e, u, hb⟩ := hs
  rw [exec_eq_finish_commandBody, hb, Ended.finish_ended] at h
  obtain rfl : u.answer (responseWord e 0#32) = t := by simpa using h
  obtain rfl : responseWord e 0#32 = r := by simpa using hr
  exact responseData_responseWord e 0#32

/-- Settles O48: the response is a legal word, its data is that of the body, and the host's side is left alone. -/
theorem everyResponseHasItsForm : Obligations.EveryResponseHasItsForm := by
  intro i s t h
  obtain ⟨r, u, legal, -, rfl⟩ := exec_wrote h
  exact ⟨r, rfl, legal, fun hrdr hrdb hrdt => responseData_of_silent (commandBody_silent hrdr hrdb hrdt s) h rfl,
    exec_surroundings h⟩

end Sys2Proof.Machine
end

section
/-! The checksum engine as algebra (spec/40_crc.md R60 to R69). The idea: a step of the engine is linear over XOR in the
register and the bit fed, so a byte fed is the byte 0 fed, XORed with the byte itself; and a step can be undone, so two
registers that differ still differ after the same bytes. The laws of R64 and R69 follow from these two facts. -/

namespace Sys2Proof.Machine

/-! ### One step -/

/-- The register with the bit shifted in from the right and its top bit shifted out. -/
def shiftIn (r : Sum) (i : Bool) : Sum := r.extractLsb' 0 15 ++ BitVec.ofBool i

theorem shiftIn_toNat (r : Sum) (i : Bool) : (shiftIn r i).toNat = (r.toNat * 2 + i.toNat) % 2 ^ 16 := by
  have disjoint : (r.toNat % 2 ^ 15) <<< 1 ||| i.toNat = (r.toNat % 2 ^ 15) <<< 1 + i.toNat :=
    (Nat.shiftLeft_add_eq_or_of_lt (i := 1) (by cases i <;> decide) _).symm
  have bit : i.toNat < 2 := by cases i <;> decide
  rw [shiftIn, BitVec.toNat_append, BitVec.extractLsb'_toNat, BitVec.toNat_ofBool, Nat.shiftRight_zero, disjoint,
    Nat.shiftLeft_eq]
  omega

/-- The document's arithmetic in 16 bits: the number is masked and XORed exactly when it does not fit. -/
theorem crcBit_toNat (r : Sum) (i : Bool) :
    (crcBit r i).toNat = if r.toNat * 2 + i.toNat > 0xFFFF then ((r.toNat * 2 + i.toNat) &&& 0xFFFF) ^^^ 0x1021
      else r.toNat * 2 + i.toNat := by
  rw [crcBit, BitVec.toNat_ofNat]
  refine Nat.mod_eq_of_lt ?_
  split
  · exact Nat.xor_lt_two_pow (Nat.and_lt_two_pow _ (by decide)) (by decide)
  · omega

/-- The number does not fit exactly when the bit shifted out is 1. -/
theorem overflows_iff (r : Sum) (i : Bool) : r.toNat * 2 + i.toNat > 0xFFFF ↔ r.getLsbD 15 = true := by
  have top : r.getLsbD 15 = decide (2 ^ 15 ≤ r.toNat) := BitVec.msb_eq_decide r
  have bit : i.toNat < 2 := by cases i <;> decide
  rw [top, decide_eq_true_iff]
  omega

theorem crcBit_eq_shiftIn_xor (r : Sum) (i : Bool) :
    crcBit r i = shiftIn r i ^^^ (if r.getLsbD 15 then 0x1021#16 else 0x0000#16) := by
  apply BitVec.eq_of_toNat_eq
  rw [crcBit_toNat, BitVec.toNat_xor, shiftIn_toNat]
  by_cases carry : r.toNat * 2 + i.toNat > 0xFFFF
  · rw [if_pos carry, if_pos ((overflows_iff r i).mp carry), Nat.and_two_pow_sub_one_eq_mod _ 16]
    rfl
  · rw [if_neg carry, if_neg (mt (overflows_iff r i).mpr carry), Nat.mod_eq_of_lt (by omega)]
    exact (Nat.xor_zero _).symm

/-- Settles O18: the arithmetic never exceeds 16 bits, and its overflow is the bit shifted out. -/
theorem crcBitIsTheShiftAndXor : Obligations.CrcBitIsTheShiftAndXor :=
  fun r i => ⟨crcBit_toNat r i, crcBit_eq_shiftIn_xor r i⟩

/-- The step bit by bit. -/
theorem getLsbD_crcBit (r : Sum) (i : Bool) {k : Nat} (hk : k < 16) :
    (crcBit r i).getLsbD k =
      ((if k = 0 then i else r.getLsbD (k - 1)) ^^ (r.getLsbD 15 && (0x1021#16).getLsbD k)) := by
  have shifted : (shiftIn r i).getLsbD k = if k = 0 then i else r.getLsbD (k - 1) := by
    rw [shiftIn, BitVec.getLsbD_append]
    by_cases h0 : k = 0
    · simp [h0]
    · rw [if_neg (by omega), if_neg h0, BitVec.getLsbD_extractLsb', Nat.zero_add, decide_eq_true (by omega),
        Bool.true_and]
  rw [crcBit_eq_shiftIn_xor, BitVec.getLsbD_xor, shifted]
  cases r.getLsbD 15 <;> simp

/-- The step is linear over XOR. -/
theorem crcBit_xor (r q : Sum) (i j : Bool) : crcBit (r ^^^ q) (i ^^ j) = crcBit r i ^^^ crcBit q j := by
  apply BitVec.eq_of_getLsbD_eq
  intro k hk
  rw [BitVec.getLsbD_xor, getLsbD_crcBit _ _ hk, getLsbD_crcBit _ _ hk, getLsbD_crcBit _ _ hk, BitVec.getLsbD_xor,
    BitVec.getLsbD_xor, Bool.and_xor_distrib_right]
  by_cases h0 : k = 0 <;> simp only [h0, if_true, if_false, Bool.xor_assoc, Bool.xor_left_comm]

/-- The step can be undone: bit 0 tells whether the polynomial was XORed in, and the other bits the register then. -/
@[simp] theorem crcBit_left_inj {r q : Sum} {i : Bool} : crcBit r i = crcBit q i ↔ r = q := by
  refine ⟨fun h => ?_, congrArg (crcBit · i)⟩
  have bits (k : Nat) (hk : k < 16) : (crcBit r i).getLsbD k = (crcBit q i).getLsbD k := congrArg (·.getLsbD k) h
  have top : r.getLsbD 15 = q.getLsbD 15 := by
    have low := bits 0 (by omega)
    rw [getLsbD_crcBit _ _ (by omega), getLsbD_crcBit _ _ (by omega)] at low
    simpa only [show (0x1021#16).getLsbD 0 = true from rfl, if_true, Bool.and_true, Bool.xor_right_inj] using low
  apply BitVec.eq_of_getLsbD_eq
  intro k hk
  by_cases h15 : k = 15
  · exact h15 ▸ top
  · have next := bits (k + 1) (by omega)
    rw [getLsbD_crcBit _ _ (by omega), getLsbD_crcBit _ _ (by omega), top, Bool.xor_left_inj] at next
    simpa only [Nat.add_one_ne_zero, if_false, Nat.add_sub_cancel] using next

/-- While the bits shifted out are 0, the step is a plain shift. -/
theorem crcBit_shiftedOut (x : Sum) (n : Nat) : crcBit (x >>> (n + 1)) (x.getLsbD n) = x >>> n := by
  apply BitVec.eq_of_getLsbD_eq
  intro k hk
  have top : x.getLsbD (n + 1 + 15) = false := BitVec.getLsbD_of_ge _ _ (by omega)
  rw [getLsbD_crcBit _ _ hk, BitVec.getLsbD_ushiftRight, BitVec.getLsbD_ushiftRight, BitVec.getLsbD_ushiftRight, top,
    Bool.false_and, Bool.xor_false]
  by_cases h0 : k = 0
  · simp [h0]
  · rw [if_neg h0, show n + 1 + (k - 1) = n + k by omega]

/-! ### One byte -/

/-- Settles O19: the eight steps of the definition, in its order. -/
theorem crcByteFeedsBitSevenFirst : Obligations.CrcByteFeedsBitSevenFirst := by
  intro r v
  simp only [List.foldl_cons, List.foldl_nil, crcByte]

theorem crcByte_xor (r q : Sum) (v w : Byte) : crcByte (r ^^^ q) (v ^^^ w) = crcByte r v ^^^ crcByte q w := by
  simp only [crcByte, BitVec.getLsbD_xor, crcBit_xor]

@[simp] theorem crcByte_left_inj {r q : Sum} {v : Byte} : crcByte r v = crcByte q v ↔ r = q := by
  simp only [crcByte, crcBit_left_inj]

/-- A byte fed to a register whose high byte is 0 stands below what was there. -/
theorem crcByte_shiftedOut (x : Sum) : crcByte (x >>> 8) (x.setWidth 8) = x := by
  have bit (k : Nat) (hk : k < 8) : (x.setWidth 8).getLsbD k = x.getLsbD k := by
    rw [BitVec.getLsbD_setWidth, decide_eq_true hk, Bool.true_and]
  simp only [crcByte, bit _ (show 7 < 8 by omega), bit _ (show 6 < 8 by omega), bit _ (show 5 < 8 by omega),
    bit _ (show 4 < 8 by omega), bit _ (show 3 < 8 by omega), bit _ (show 2 < 8 by omega),
    bit _ (show 1 < 8 by omega), bit _ (show 0 < 8 by omega), crcBit_shiftedOut]
  exact BitVec.ushiftRight_zero x

/-- The first byte fed fills the low byte of the register. -/
theorem crcByte_zero_left (v : Byte) : crcByte 0x0000#16 v = v.setWidth 16 := by
  have high : v.setWidth 16 >>> 8 = 0x0000#16 := by
    apply BitVec.eq_of_toNat_eq
    have := v.isLt
    simp [Nat.shiftRight_eq_div_pow]
    omega
  have low : (v.setWidth 16).setWidth 8 = v := by simp
  simpa only [high, low] using crcByte_shiftedOut (v.setWidth 16)

/-- A zero byte moves a low byte into the high byte. -/
theorem crcByte_setWidth_zero (v : Byte) : crcByte (v.setWidth 16) 0x00#8 = v.setWidth 16 <<< 8 := by
  have high : (v.setWidth 16 <<< 8) >>> 8 = v.setWidth 16 := by
    apply BitVec.eq_of_toNat_eq
    have := v.isLt
    simp [Nat.shiftRight_eq_div_pow, Nat.shiftLeft_eq]
    omega
  have low : (v.setWidth 16 <<< 8).setWidth 8 = 0x00#8 := by
    apply BitVec.eq_of_toNat_eq
    simp
  simpa only [high, low] using crcByte_shiftedOut (v.setWidth 16 <<< 8)

/-- Feeding a byte is feeding the byte 0 and XORing the byte into the low end of the register. -/
theorem crcByte_eq_xor (r : Sum) (v : Byte) : crcByte r v = crcByte r 0x00#8 ^^^ v.setWidth 16 := by
  simpa only [BitVec.xor_zero, BitVec.zero_xor, crcByte_zero_left] using crcByte_xor r 0x0000#16 0x00#8 v

@[simp] theorem crcByte_right_inj {r : Sum} {v w : Byte} : crcByte r v = crcByte r w ↔ v = w := by
  refine ⟨fun h => ?_, congrArg (crcByte r)⟩
  have widened : v.setWidth 16 = w.setWidth 16 := by
    rwa [crcByte_eq_xor r v, crcByte_eq_xor r w, BitVec.xor_right_inj] at h
  simpa using congrArg (BitVec.setWidth 8) widened

/-! ### Sequences of bytes -/

theorem crcRun_append (r : Sum) (p q : List Byte) : crcRun r (p ++ q) = crcRun (crcRun r p) q := by
  induction p generalizing r with
  | nil => rfl
  | cons v p ih => exact ih (crcByte r v)

@[simp] theorem crcRun_left_inj {r q : Sum} {p : List Byte} : crcRun r p = crcRun q p ↔ r = q := by
  induction p generalizing r q with
  | nil => rfl
  | cons v p ih => rw [crcRun_cons, crcRun_cons, ih, crcByte_left_inj]

/-- A byte changed anywhere in a sequence changes the register it leaves. -/
theorem crcRun_modify_ne {f : Byte → Byte} (hf : ∀ v, f v ≠ v) {p : List Byte} {i : Nat} (hi : i < p.length)
    (r : Sum) : crcRun r (p.modify i f) ≠ crcRun r p := by
  induction p generalizing i r with
  | nil => exact absurd hi (Nat.not_lt_zero i)
  | cons v p ih =>
    cases i with
    | zero => exact fun h => hf v (crcByte_right_inj.mp (crcRun_left_inj.mp h))
    | succ i => exact ih (Nat.lt_of_succ_lt_succ hi) (crcByte r v)

theorem crcRun_replicate_zero (n : Nat) : crcRun 0x0000#16 (List.replicate n 0x00#8) = 0x0000#16 := by
  induction n with
  | zero => rfl
  | succ n ih => rw [List.replicate_succ, crcRun_cons, crcByte_zero_left]; exact ih

theorem crcRun_zero_pad : crcRun 0x0000#16 Config.crcPad = 0x0000#16 := crcRun_replicate_zero 2

/-! ### The checksum of a payload -/

/-- The checksum is the register after the payload, fed the two padding bytes (40_crc.md R63). -/
theorem crc16_eq_pad_crcRun (p : List Byte) : crc16 p = crcByte (crcByte (crcRun 0x0000#16 p) 0x00#8) 0x00#8 := by
  rw [crc16, crcRun_append, crcRun_pad]

theorem highByte_toNat (c : Sum) : (highByte c).toNat = c.toNat >>> 8 := by
  have := c.isLt
  rw [highByte, BitVec.extractLsb'_toNat, Nat.shiftRight_eq_div_pow]
  omega

theorem lowByte_toNat (c : Sum) : (lowByte c).toNat = c.toNat &&& 0xFF := by
  rw [lowByte, BitVec.extractLsb'_toNat, Nat.shiftRight_zero]
  exact (Nat.and_two_pow_sub_one_eq_mod c.toNat 8).symm

/-- Settles O20: the equations of the fold, its split at a concatenation, and the padding as two bytes. -/
theorem checksumFoldsThePaddedPayload : Obligations.ChecksumFoldsThePaddedPayload :=
  ⟨crcRun_nil, crcRun_cons, crcRun_append, crc16_eq_pad_crcRun, fun c => ⟨highByte_toNat c, lowByte_toNat c⟩⟩

/-- Settles O21: zero bytes, the padding among them, keep the zero register that the checksum starts from. -/
theorem leadingZeroBytesAreInvisible : Obligations.LeadingZeroBytesAreInvisible := by
  constructor
  · intro n
    rw [crc16, crcRun_append, crcRun_replicate_zero, crcRun_zero_pad]
  · intro n p
    rw [crc16, List.append_assoc, crcRun_append, crcRun_replicate_zero, crc16]

/-- The padding turns a byte fed at the low end into one XORed in at the top. -/
theorem crcRun_pad_crcByte (r : Sum) (v : Byte) :
    crcRun (crcByte r v) Config.crcPad = crcDirectByte (crcRun r Config.crcPad) v := by
  have split (q q' : Sum) : crcByte (q ^^^ q') 0x00#8 = crcByte q 0x00#8 ^^^ crcByte q' 0x00#8 :=
    crcByte_xor q q' 0x00#8 0x00#8
  rw [crcRun_pad, crcRun_pad, crcByte_eq_xor r v, split, split, crcByte_setWidth_zero, ← split, crcDirectByte]

/-- What the padding makes of the register after a payload is the direct form's register. -/
theorem crcRun_pad_crcRun (r : Sum) (p : List Byte) :
    crcRun (crcRun r p) Config.crcPad = crcDirect (crcRun r Config.crcPad) p := by
  induction p generalizing r with
  | nil => rfl
  | cons v p ih => rw [crcRun_cons r v p, ih, crcRun_pad_crcByte, crcDirect_cons]

/-- Settles O22: the padding moves through the payload byte by byte, and makes nothing of the zero register. -/
theorem paddedFormIsTheDirectForm : Obligations.PaddedFormIsTheDirectForm := by
  intro p
  rw [crc16, crcRun_append, crcRun_pad_crcRun, crcRun_zero_pad]

/-- Flipping a bit of a byte changes it. -/
theorem xor_twoPow_ne {k : Nat} (hk : k < 8) (v : Byte) : v ^^^ BitVec.twoPow 8 k ≠ v := by
  intro h
  have flipped := congrArg (·.getLsbD k) h
  simp [hk] at flipped

theorem crcRun_flipBit_ne {p : List Byte} {i k : Nat} (hi : i < p.length) (hk : k < 8) (r : Sum) :
    crcRun r (flipBit p i k) ≠ crcRun r p := crcRun_modify_ne (xor_twoPow_ne hk) hi r

/-- Settles O23: the registers after the two payloads differ, and the same padding keeps them apart. -/
theorem singleBitErrorsChangeTheChecksum : Obligations.SingleBitErrorsChangeTheChecksum := by
  intro p i k hi hk h
  rw [crc16, crc16, crcRun_append, crcRun_append, crcRun_left_inj] at h
  exact crcRun_flipBit_ne hi hk _ h

end Sys2Proof.Machine
end

section
/-! The commands of the checksum engine and what the checksum says of a record (spec/40_crc.md R65 to R68,
spec/43_check.md R88). The idea for the record: the register after all of its 36 bytes is 0 exactly when its last two
bytes are the checksum of the others, so that one law about a changed byte speaks of every index of `BUF`. -/

namespace Sys2Proof.Machine

/-! ### The three commands -/

/-- A command whose body ended answers the response to that end. -/
theorem exec_of_commandBody {i : Instr} {s t : State} {e : ErrCode} {d : Word32} (h : commandBody i s = .ended e d t) :
    exec i s = .next (t.answer (responseWord e d)) := by
  rw [exec_eq_finish_commandBody, h, Ended.finish_ended]

/-- A command whose body succeeded with data 0 answers the word 0. -/
theorem exec_of_commandBody_done {i : Instr} {s t : State} (h : commandBody i s = .done t 0#32) :
    exec i s = .next (t.answer 0x0000000000000000#64) := by
  rw [exec_of_commandBody h, responseWord_zero]

theorem exec_crcclr (s : State) : exec .crcclr s = .next ((s.setCrc 0x0000#16).answer 0x0000000000000000#64) :=
  exec_of_commandBody_done rfl

theorem exec_crcput (val : Byte) (s : State) :
    exec (.crcput val) s = .next ((s.setCrc (crcByte s.crc val)).answer 0x0000000000000000#64) :=
  exec_of_commandBody_done rfl

theorem exec_crcfin (s : State) :
    exec .crcfin s = .next ((s.setCrc (crcRun s.crc Config.crcPad)).answer 0x0000000000000000#64) :=
  exec_of_commandBody_done rfl

theorem exec_wrb_of_inside {idx : Byte} (h : idx.toNat < 36) (val : Byte) (s : State) :
    exec (.wrb idx val) s = .next ((s.setBuf (s.buf.store idx.toNat [val])).answer 0x0000000000000000#64) :=
  exec_of_commandBody_done (storeByte_of_inside .record idx val s h)

/-- Settles O24: the word is the encoding of `CRCCLR`. -/
theorem crcclrClearsTheRegister : Obligations.CrcclrClearsTheRegister :=
  ⟨decode_eq_ok_iff.mpr ⟨rfl, rfl⟩, exec_crcclr⟩

/-- Settles O25: the word of any byte is the encoding of its `CRCPUT`. -/
theorem crcputFeedsOneByte : Obligations.CrcputFeedsOneByte :=
  ⟨fun _ => decode_eq_ok_iff.mpr ⟨rfl, rfl⟩, fun s val => exec_crcput val s⟩

/-- Settles O26: the word is the encoding of `CRCFIN`, and the padding is two zero bytes. -/
theorem crcfinFeedsThePadding : Obligations.CrcfinFeedsThePadding := by
  refine ⟨decode_eq_ok_iff.mpr ⟨rfl, rfl⟩, fun s => ?_⟩
  rw [exec_crcfin, crcRun_pad]
  rfl

/-! ### Streams -/

/-- A `DECODE` without a text of 48 valid characters fails at its base64 stage (40_crc.md R68, 44_codec.md R91). -/
theorem decodeTextBody_of_leavesStream {s : State} (h : LeavesStream .decode s) :
    ∃ e, e ≠ .ok ∧ decodeTextBody s = .failed e s.clearResult := by
  obtain ⟨-, hb⟩ | ⟨-, _, -, -, hb⟩ | ⟨hlen, text, vs, htext, hvs, -⟩ := b64decBody_cases s
  · exact ⟨.length, by decide, decodeTextBody_of_failed (by decide) hb⟩
  · exact ⟨.alphabet, by decide, decodeTextBody_of_failed (by decide) hb⟩
  · obtain hne | ⟨i, c, hi, hc, invalid⟩ := h
    · exact absurd (BitVec.eq_of_toNat_eq hlen) hne
    · have hget : text[i]? = some c := by
        rw [← ((s.txt.slice_eq_some_iff 0 48 text).mp htext).2 i hi, Nat.zero_add]
        exact hc
      have none := (textValues_eq_none_iff text).mpr ⟨i, c, hget, invalid⟩
      rw [hvs] at none
      cases none

/-- The commands that may stand inside a checksum stream leave `CRC` alone (40_crc.md R68). -/
theorem exec_crc_of_leavesStream {i : Instr} {s t : State} (hi : LeavesStream i s) (h : exec i s = .next t) :
    t.crc = s.crc := by
  by_cases hd : i = .decode
  · subst hd
    obtain ⟨e, he, hb⟩ := decodeTextBody_of_leavesStream hi
    have body : commandBody .decode s = .failed e s.clearResult :=
      (congrArg (·.andThen checkBody) hb).trans (Ended.andThen_failed he 0#32 _ checkBody)
    obtain rfl : _ = t := Host.Outcome.next.inj ((exec_of_commandBody body).symm.trans h)
    rfl
  · obtain ⟨-, -, -, hcrc, -⟩ := elementsAreWrittenOnlyByTheNamedCommands i s t h
    refine hcrc ?_ ?_ ?_ ?_ ?_ ?_ hd <;> intros <;> rintro rfl <;> exact hi

/-- A stretch of a stream feeds its bytes to `CRC`. -/
theorem Stream.crc_eq {vs : List Byte} {s u : State} (h : Stream vs s u) : u.crc = crcRun s.crc vs := by
  induction h with
  | here s => rfl
  | put v vs s t u hput _ ih =>
    obtain rfl : _ = t := Host.Outcome.next.inj ((exec_crcput v s).symm.trans hput)
    exact ih
  | other i vs s t u hi hexec _ ih => rw [ih, exec_crc_of_leavesStream hi hexec]

/-- Settles O27: the stream starts from a clear register, feeds its bytes, and ends with the padding. -/
theorem streamedChecksumIsCrc16 : Obligations.StreamedChecksumIsCrc16 := by
  intro vs s s₁ s₂ s₃ hclr hstream hfin
  obtain rfl : _ = s₁ := Host.Outcome.next.inj ((exec_crcclr s).symm.trans hclr)
  obtain rfl : _ = s₃ := Host.Outcome.next.inj ((exec_crcfin s₂).symm.trans hfin)
  rw [State.answer_crc, State.setCrc_crc, hstream.crc_eq, State.answer_crc, State.setCrc_crc, crc16, crcRun_append]

/-! ### The bytes of a record -/

/-- The 36 bytes of a record, in the order of 30_encoding.md R50. -/
def Record.bytes (r : Record) : List Byte := r.covered ++ [r.sumHigh, r.sumLow]

/-- The last two bytes are XORed into the register that two zero bytes leave. -/
theorem crcRun_pair (r : Sum) (hi lo : Byte) : crcRun r [hi, lo] = crcRun r Config.crcPad ^^^ (hi ++ lo) := by
  have pair : crcRun 0x0000#16 [hi, lo] = hi ++ lo := by
    have high : (hi ++ lo : Sum) >>> 8 = hi.setWidth 16 := by
      apply BitVec.eq_of_getLsbD_eq
      intro k hk
      rw [BitVec.getLsbD_ushiftRight, BitVec.getLsbD_setWidth, decide_eq_true hk, Bool.true_and]
      exact BitVec.getLsbD_append.trans (by simp)
    have low : (hi ++ lo : Sum).setWidth 8 = lo := BitVec.setWidth_append_eq_right
    rw [crcRun_cons, crcRun_cons, crcRun_nil, crcByte_zero_left]
    simpa only [high, low] using crcByte_shiftedOut (hi ++ lo)
  calc crcRun r [hi, lo] = crcRun (r ^^^ 0x0000#16) [0x00#8 ^^^ hi, 0x00#8 ^^^ lo] := by
        rw [BitVec.xor_zero, BitVec.zero_xor, BitVec.zero_xor]
    _ = crcRun r Config.crcPad ^^^ crcRun 0x0000#16 [hi, lo] := by simp only [crcRun_cons, crcRun_nil, crcByte_xor]
    _ = crcRun r Config.crcPad ^^^ (hi ++ lo) := by rw [pair]

/-- The checksum of a record matches when its last two bytes, joined, are the checksum. -/
theorem Record.sumMatches_iff (r : Record) : r.sumMatches = true ↔ crc16 r.covered = r.sumHigh ++ r.sumLow := by
  simp only [Record.sumMatches, Bool.and_eq_true, beq_iff_eq]
  constructor
  · rintro ⟨high, low⟩
    rw [high, low]
    exact (BitVec.extractLsb'_append_extractLsb' (w := 8) (len := 8)).symm
  · intro joined
    rw [joined]
    exact ⟨BitVec.extractLsb'_append_eq_left.symm, BitVec.extractLsb'_append_eq_right.symm⟩

/-- The checksum of a record matches exactly when the register after all its bytes is 0. -/
theorem Record.sumMatches_iff_crcRun_bytes (r : Record) :
    r.sumMatches = true ↔ crcRun 0x0000#16 r.bytes = 0x0000#16 := by
  rw [r.sumMatches_iff, Record.bytes, crcRun_append, crcRun_pair, ← crcRun_append, BitVec.xor_eq_zero_iff]
  rfl

/-- Two slices that meet are one. -/
theorem Buffer.slice_append {size : Nat} {b : Buffer size} {lo m n : Nat} {xs ys : List Byte}
    (hx : b.slice lo m = some xs) (hy : b.slice (lo + m) n = some ys) : b.slice lo (m + n) = some (xs ++ ys) := by
  rw [Buffer.slice_eq_some_iff] at hx hy ⊢
  obtain ⟨rfl, hx⟩ := hx
  obtain ⟨rfl, hy⟩ := hy
  refine ⟨List.length_append, fun k hk => ?_⟩
  by_cases hkx : k < xs.length
  · rw [List.getElem?_append_left hkx, hx k hkx]
  · obtain ⟨j, rfl⟩ := Nat.exists_eq_add_of_le (Nat.not_lt.mp hkx)
    rw [List.getElem?_append_right (by omega), Nat.add_sub_cancel_left, ← hy j (by omega), Nat.add_assoc]

theorem Buffer.slice_pair {size : Nat} {b : Buffer size} {a : Nat} {v w : Byte} (hv : b.read a = some v)
    (hw : b.read (a + 1) = some w) : b.slice a 2 = some [v, w] := by
  rw [Buffer.slice_eq_some_iff]
  refine ⟨rfl, fun k hk => ?_⟩
  obtain rfl | rfl : k = 0 ∨ k = 1 := by omega
  exacts [hv, hw]

/-- `BUF` holds the bytes of its record and nothing else. -/
theorem Buffer.slice_of_record {b : Buffer 36} {r : Record} (h : b.record = some r) : b.slice 0 36 = some r.bytes := by
  obtain ⟨tag, wcByte, account, hi, lo, h0, h1, h2, h34, h35, hr⟩ := b.record_found
  obtain rfl : _ = r := Option.some.inj (hr.symm.trans h)
  exact Buffer.slice_append (Buffer.slice_append (Buffer.slice_pair h0 h1) h2) (Buffer.slice_pair h34 h35)

/-- What `CHECK` answers, by the register after the bytes of `BUF` (43_check.md R85). -/
theorem exec_check_of_bytes {s : State} {bytes : List Byte} (h : s.buf.slice 0 36 = some bytes) :
    ∃ t, exec .check s = .next t ∧
      t.response = some (responseWord (if crcRun 0x0000#16 bytes = 0x0000#16 then .ok else .checksum) 0#32) := by
  obtain ⟨r, hr, hb⟩ := checkBody_eq s
  obtain rfl : r.bytes = bytes := Option.some.inj ((Buffer.slice_of_record hr).symm.trans h)
  refine ⟨_, exec_of_commandBody hb, ?_⟩
  simp only [State.answer_response, r.sumMatches_iff_crcRun_bytes]

/-- A byte written into a buffer, in the list of all its bytes. -/
theorem Buffer.slice_store_byte {size : Nat} {b : Buffer size} {bytes : List Byte} {a : Nat} {v : Byte}
    (h : b.slice 0 size = some bytes) (ha : a < size) (hv : b.read a = some v) (f : Byte → Byte) :
    (b.store a [f v]).slice 0 size = some (bytes.modify a f) := by
  rw [Buffer.slice_eq_some_iff] at h ⊢
  obtain ⟨hlen, hread⟩ := h
  refine ⟨by rw [List.length_modify, hlen], fun k hk => ?_⟩
  have hk' := hread k hk
  rw [Nat.zero_add] at hk' ⊢
  by_cases hka : k = a
  · subst hka
    rw [b.read_store_of_inside k [f v] k (f v) ha (Nat.le_refl k) (by simp), List.getElem?_modify_eq, ← hk', hv]
    rfl
  · rw [b.read_store_of_outside a [f v] k (by rw [List.length_singleton]; omega),
      List.getElem?_modify_ne _ _ (Ne.symm hka), hk']

/-- Settles O42: with the record valid the register after the 36 bytes is 0, and a changed byte changes the register. -/
theorem oneFlippedBitFailsTheCheck : Obligations.OneFlippedBitFailsTheCheck := by
  intro s t idx v k hcheck hok hread hk
  have hidx : idx.toNat < 36 := (s.buf.read_isSome idx.toNat).mp (Option.isSome_of_eq_some hread)
  obtain ⟨bytes, hbytes⟩ := s.buf.exists_slice 0 36 (by decide)
  have valid : crcRun 0x0000#16 bytes = 0x0000#16 := by
    obtain ⟨t', ht', hresp⟩ := exec_check_of_bytes hbytes
    obtain rfl : t' = t := Host.Outcome.next.inj (ht'.symm.trans hcheck)
    by_contra invalid
    rw [hok, if_neg invalid, responseWord_zero] at hresp
    exact absurd hresp (by decide)
  have changed : crcRun 0x0000#16 (flipBit bytes idx.toNat k) ≠ 0x0000#16 :=
    fun h => crcRun_flipBit_ne (by rwa [Buffer.slice_length hbytes]) hk 0x0000#16 (h.trans valid.symm)
  have stored : (s.buf.store idx.toNat [v ^^^ BitVec.twoPow 8 k]).slice 0 36 = some (flipBit bytes idx.toNat k) :=
    Buffer.slice_store_byte hbytes hidx hread (· ^^^ BitVec.twoPow 8 k)
  obtain ⟨u, hu, hresp⟩ := exec_check_of_bytes
    (s := (s.setBuf (s.buf.store idx.toNat [v ^^^ BitVec.twoPow 8 k])).answer 0x0000000000000000#64) stored
  refine ⟨u, ?_, ?_⟩
  · rw [execAll, exec_wrb_of_inside hidx]
    simp only [execAll, hu]
  · rw [hresp, if_neg changed, responseWord_zero]

end Sys2Proof.Machine
end

section
/-! Packing and the round trip through the block (spec/41_pack.md R70 to R73, spec/44_codec.md R90, R91, R94). The idea:
`PACK` is one function of the account identifier in `BUF`. The bytes it leaves are those of one record, whose checksum
matches as it was computed from them, so `CHECK` publishes what went in. `ENCODE` writes these bytes as a text that
decodes to them, so `DECODE` is a `CHECK` of the same record. -/

namespace Sys2Proof.Machine

/-! ### The record that the operands give -/

theorem legalWorkchain_iff (wc : Word32) : legalWorkchain (operandInt wc) = true ↔ LegalWc wc := by
  simp only [legalWorkchain, Bool.or_eq_true, beq_iff_eq, Bool.and_eq_true, decide_eq_true_iff]
  rfl

theorem composeWorkchain_eq_wcByteFor (wc : Word32) : composeWorkchain wc = wcByteFor wc := by
  have minusOne : operandInt wc = -1 ↔ wc = 0xFFFFFFFF#32 := BitVec.toInt_inj (y := 0xFFFFFFFF#32)
  have low : wc.setWidth 8 = wc.extractLsb' 0 8 := BitVec.setWidth_eq_extractLsb' (by decide)
  simp only [composeWorkchain, minusOne, low]

/-- The tag byte composed from the flags reads as these flags (30_encoding.md R51, R52). -/
theorem tagFor_reads (flg : Byte) :
    tagIsBounceable (tagFor flg) = flg.getLsbD 0 ∧ tagIsTestnet (tagFor flg) = flg.getLsbD 1 := by
  obtain ⟨testnet, notBounceable, -⟩ := composeTag_bits flg
  have bounceable : (!(tagFor flg).getLsbD 6) = flg.getLsbD 0 := (congrArg (!·) notBounceable).trans (Bool.not_not _)
  exact ⟨(tagIsBounceable_eq _).trans bounceable, (tagIsTestnet_eq _).trans testnet⟩

theorem packRecord_covered (flg : Byte) (wc : Word32) (account : List Byte) :
    (packRecord flg wc account).covered = packedPrefix flg wc account := by
  rw [packedPrefix, ← composeWorkchain_eq_wcByteFor]
  rfl

theorem packRecord_bytes (flg : Byte) (wc : Word32) (account : List Byte) :
    (packRecord flg wc account).bytes = packedRecord flg wc account := by
  rw [packedRecord, ← packRecord_covered]
  rfl

/-- The checksum of the record `PACK` builds is computed from the bytes it covers. -/
theorem packRecord_sumMatches (flg : Byte) (wc : Word32) (account : List Byte) :
    (packRecord flg wc account).sumMatches = true := by
  simp [Record.sumMatches, packRecord, Record.covered]

/-- The bytes of a record tell its fields. -/
theorem Record.eq_of_bytes_eq {r r' : Record} (hlen : r.account.length = r'.account.length) (h : r.bytes = r'.bytes) :
    r = r' := by
  obtain ⟨covered, sum⟩ := List.append_inj h (by simp [Record.covered, hlen])
  cases r
  cases r'
  simp only [Record.covered, List.cons.injEq, and_true] at covered sum
  simp only [Record.mk.injEq]
  obtain ⟨tag, wcByte, account⟩ := covered
  exact ⟨tag, wcByte, account, sum⟩

/-! ### Bytes stored and bytes read -/

/-- A space holds bytes exactly where its slice is these bytes. -/
theorem State.holds_iff_slice (s : State) (sp : Space) (lo : Nat) (bytes : List Byte) :
    s.holds sp lo bytes ↔ (s.mem sp).slice lo bytes.length = some bytes := by
  rw [Buffer.slice_eq_some_iff]
  exact (and_iff_right rfl).symm

/-- The bytes just stored, read back. -/
theorem Buffer.slice_store {size : Nat} (b : Buffer size) {lo : Nat} {bs : List Byte} (h : lo + bs.length ≤ size) :
    (b.store lo bs).slice lo bs.length = some bs := by
  rw [Buffer.slice_eq_some_iff]
  refine ⟨rfl, fun k hk => ?_⟩
  have hv : bs[lo + k - lo]? = some bs[k] := by rw [Nat.add_sub_cancel_left, List.getElem?_eq_getElem hk]
  rw [b.read_store_of_inside lo bs (lo + k) _ (by omega) (Nat.le_add_right lo k) hv, List.getElem?_eq_getElem hk]

/-- A slice that a store does not touch. -/
theorem Buffer.slice_store_of_outside {size : Nat} (b : Buffer size) {lo start n : Nat} {bs : List Byte}
    (h : start + n ≤ lo ∨ lo + bs.length ≤ start) : (b.store lo bs).slice start n = b.slice start n :=
  Buffer.slice_congr fun k hk => b.read_store_of_outside lo bs (start + k) (by omega)

/-- `BUF` with the bytes of a record written around the account identifier (41_pack.md R70). -/
def Buffer.around (b : Buffer 36) (r : Record) : Buffer 36 :=
  (b.store 0 [r.tag, r.wcByte]).store 34 [r.sumHigh, r.sumLow]

theorem Buffer.read_around (b : Buffer 36) (r : Record) {a : Nat} (hlo : 2 ≤ a) (hhi : a < 34 ∨ 36 ≤ a) :
    (b.around r).read a = b.read a := by
  rw [Buffer.around, Buffer.read_store_of_outside _ _ _ _ (by simpa using hhi),
    Buffer.read_store_of_outside _ _ _ _ (.inr (by simpa using hlo))]

/-- With its account identifier in place, the bytes around it complete the record. -/
theorem Buffer.slice_around {b : Buffer 36} {r : Record} (h : b.slice 2 32 = some r.account) :
    (b.around r).slice 0 36 = some r.bytes := by
  have head : (b.around r).slice 0 2 = some [r.tag, r.wcByte] := by
    rw [Buffer.around, Buffer.slice_store_of_outside _ (.inl (by decide))]
    exact b.slice_store (bs := [r.tag, r.wcByte]) (by simp)
  have account : (b.around r).slice 2 32 = some r.account := by
    rw [Buffer.around, Buffer.slice_store_of_outside _ (.inl (by decide)),
      Buffer.slice_store_of_outside _ (.inr (by simp)), h]
  have sum : (b.around r).slice 34 2 = some [r.sumHigh, r.sumLow] := Buffer.slice_store _ (by simp)
  exact Buffer.slice_append (Buffer.slice_append head account) sum

/-- The bytes of a record, all written, are those written around its account identifier. -/
theorem Buffer.store_bytes_eq_around (b : Buffer 36) {b' : Buffer 36} {r : Record}
    (h : b'.slice 2 32 = some r.account) : b.store 0 r.bytes = b'.around r := by
  have hlen : r.bytes.length = 36 := Buffer.slice_length (Buffer.slice_around h)
  have stored := b.slice_store (lo := 0) (bs := r.bytes) (by omega)
  rw [hlen] at stored
  exact Buffer.eq_of_slice_eq (stored.trans (Buffer.slice_around h).symm)

/-- `BUF` with the bytes of a record around its account identifier holds that record. -/
theorem Buffer.record_around {b : Buffer 36} {r : Record} (h : b.slice 2 32 = some r.account) :
    (b.around r).record = some r := by
  obtain ⟨_, _, account, _, _, -, -, found, -, -, hr⟩ := (b.around r).record_found
  have bytes : _ = r.bytes := Option.some.inj ((Buffer.slice_of_record hr).symm.trans (Buffer.slice_around h))
  have hlen : account.length = r.account.length := by rw [Buffer.slice_length found, Buffer.slice_length h]
  rw [hr, Record.eq_of_bytes_eq hlen bytes]

/-! ### PACK -/

/-- The state with a record packed: the bytes around the account identifier, and the checksum in `CRC`. -/
def State.packed (s : State) (r : Record) : State := (s.setBuf (s.buf.around r)).setCrc (crc16 r.covered)

theorem State.packed_crc (s : State) (r : Record) : (s.packed r).crc = crc16 r.covered := State.setCrc_crc _ _

theorem packBody_of_legalWc {wc : Word32} {s : State} {account : List Byte} (legal : LegalWc wc)
    (ha : s.buf.slice 2 32 = some account) (flg : Byte) :
    packBody flg wc s = .done (s.packed (packRecord flg wc account)) 0#32 :=
  packBody_of_legal ((legalWorkchain_iff wc).mpr legal) ha flg

theorem packBody_of_not_legalWc {wc : Word32} (illegal : ¬ LegalWc wc) (flg : Byte) (s : State) :
    packBody flg wc s = .failed .workchain s :=
  packBody_of_illegal (Bool.eq_false_iff.mpr (mt (legalWorkchain_iff wc).mp illegal)) flg s

theorem exec_pack_of_legalWc {wc : Word32} {s : State} {account : List Byte} (legal : LegalWc wc)
    (ha : s.buf.slice 2 32 = some account) (flg : Byte) :
    exec (.pack flg wc) s = .next ((s.packed (packRecord flg wc account)).answer 0x0000000000000000#64) :=
  exec_of_commandBody_done (packBody_of_legalWc legal ha flg)

/-- The response `E_WORKCHAIN`, as the word it is (60_exceptions.md R120). -/
theorem exec_of_commandBody_workchain {i : Instr} {s : State} (h : commandBody i s = .failed .workchain s) :
    exec i s = .next { s with response := some 0x0000000300000000#64 } := by
  rw [exec_of_commandBody h, responseWord_zero]
  rfl

theorem exec_pack_of_not_legalWc {wc : Word32} (illegal : ¬ LegalWc wc) (flg : Byte) (s : State) :
    exec (.pack flg wc) s = .next { s with response := some 0x0000000300000000#64 } :=
  exec_of_commandBody_workchain (packBody_of_not_legalWc illegal flg s)

/-- Settles O28: the record written around the account identifier is the one of the operands. -/
theorem packBuildsTheRecord : Obligations.PackBuildsTheRecord := by
  refine ⟨fun flg wc legal => decode_eq_ok_iff.mpr ⟨beq_iff_eq.mpr legal, rfl⟩, ?_,
    fun s flg wc illegal => exec_pack_of_not_legalWc illegal flg s⟩
  intro s flg wc account legal hlen hacc
  have ha : s.buf.slice 2 32 = some account := hlen ▸ (s.holds_iff_slice .record 2 account).mp hacc
  have built : (s.buf.around (packRecord flg wc account)).slice 0 36 = some (packedRecord flg wc account) :=
    packRecord_bytes flg wc account ▸ Buffer.slice_around ha
  refine ⟨_, exec_pack_of_legalWc legal ha flg, ?_, fun a h0 h1 h34 h35 => ?_, ?_⟩
  · rw [State.holds_iff_slice, Buffer.slice_length built]
    exact built
  · exact s.buf.read_around _ (by omega) (by omega)
  · rw [← packRecord_covered]
    rfl

/-- Settles O31: the second `PACK` finds the account identifier that the first one found, and overwrites all that the
first one wrote. -/
theorem lastPackWins : Obligations.LastPackWins := by
  intro s t flg flg' wc wc' legal hpack legal'
  obtain ⟨account, ha⟩ := s.buf.exists_slice 2 32 (by decide)
  obtain rfl : _ = t := Host.Outcome.next.inj ((exec_pack_of_legalWc legal ha flg).symm.trans hpack)
  have kept : (s.buf.around (packRecord flg wc account)).slice 2 32 = s.buf.slice 2 32 :=
    Buffer.slice_congr fun k hk => s.buf.read_around _ (by omega) (by omega)
  have again (r : Record) : (s.buf.around (packRecord flg wc account)).around r = s.buf.around r :=
    Buffer.store_around_congr kept _ _ _ _
  rw [exec_pack_of_legalWc legal' ha flg', exec_pack_of_legalWc legal' (kept.trans ha) flg', State.packed, State.packed]
  exact congrArg (fun b => Host.Outcome.next (((s.setBuf b).setCrc _).answer _)) (again _)

/-! ### CHECK of a packed record -/

theorem exec_check_of_match {s : State} {r : Record} (hr : s.buf.record = some r) (valid : r.sumMatches = true) :
    exec .check s = .next (((s.setCrc (crc16 r.covered)).setResult (validStatus r.tag) r.tag
      (readWorkchain r.wcByte)).answer 0x0000000000000000#64) := by
  refine exec_of_commandBody_done ((checkBody_of_record hr).trans ?_)
  rw [if_pos valid, s.checked_of_match valid]

/-- The result registers report what a record was packed with (41_pack.md R72). -/
def State.Reports (s : State) (flg : Byte) (wc : Word32) : Prop :=
  statusValid s.status = true ∧ statusBnc s.status = flg.getLsbD 0 ∧ statusTst s.status = flg.getLsbD 1 ∧
    s.wc = wc ∧ s.tag = tagFor flg

/-- `CHECK` of a packed record succeeds and reports what it was packed with (41_pack.md R72). -/
theorem exec_check_of_packRecord {s : State} {flg : Byte} {wc : Word32} {account : List Byte} (legal : LegalWc wc)
    (hr : s.buf.record = some (packRecord flg wc account)) :
    ∃ t, exec .check s = .next t ∧ t.response = some 0x0000000000000000#64 ∧ t.Reports flg wc ∧
      t.crc = crc16 (packRecord flg wc account).covered ∧ t.buf = s.buf := by
  obtain ⟨-, valid, bnc, tst⟩ := validStatus_bits (tagFor flg)
  obtain ⟨bounceable, testnet⟩ := tagFor_reads flg
  refine ⟨_, exec_check_of_match hr (packRecord_sumMatches flg wc account), rfl,
    ⟨valid, bnc.trans bounceable, tst.trans testnet, workchainByteRoundTrip.1 wc legal, rfl⟩, ?_, rfl⟩
  rw [State.answer_crc, State.setResult_crc, State.setCrc_crc]

/-- Settles O30: `BUF` holds the record of the operands, and its checksum stands in `CRC` already. -/
theorem checkAcceptsWhatPackBuilt : Obligations.CheckAcceptsWhatPackBuilt := by
  intro s t flg wc legal hpack
  obtain ⟨account, ha⟩ := s.buf.exists_slice 2 32 (by decide)
  obtain rfl : _ = t := Host.Outcome.next.inj ((exec_pack_of_legalWc legal ha flg).symm.trans hpack)
  obtain ⟨u, hu, hresp, ⟨valid, bnc, tst, hwc, htag⟩, hcrc, -⟩ := exec_check_of_packRecord
    (s := (s.packed (packRecord flg wc account)).answer 0x0000000000000000#64) legal (Buffer.record_around ha)
  rw [← State.packed_crc s] at hcrc
  exact ⟨u, hu, hresp, valid, bnc, tst, hwc, htag, hcrc⟩

/-! ### ENCODE -/

theorem b64encBody_of_bytes {s : State} {bytes : List Byte} (h : s.buf.slice 0 36 = some bytes) :
    b64encBody s = .done ((s.setTxt (s.txt.store 0 (b64Encode bytes))).setTlen 48#7) 0#32 := by
  obtain ⟨bytes', h', hb⟩ := b64encBody_eq s
  obtain rfl : bytes' = bytes := Option.some.inj (h'.symm.trans h)
  exact hb

/-- The state with a record packed and its text written (44_codec.md R90). -/
def State.encoded (s : State) (r : Record) : State :=
  ((s.packed r).setTxt (s.txt.store 0 (b64Encode r.bytes))).setTlen 48#7

theorem exec_encode_of_legalWc {wc : Word32} {s : State} {account : List Byte} (legal : LegalWc wc)
    (ha : s.buf.slice 2 32 = some account) (flg : Byte) :
    exec (.encode flg wc) s = .next ((s.encoded (packRecord flg wc account)).answer 0x0000000000000000#64) := by
  have packs : commandBody (.encode flg wc) s = b64encBody (s.packed (packRecord flg wc account)) :=
    congrArg (·.andThen b64encBody) (packBody_of_legalWc legal ha flg)
  exact exec_of_commandBody_done
    (packs.trans (b64encBody_of_bytes (Buffer.slice_around (r := packRecord flg wc account) ha)))

theorem exec_encode_of_not_legalWc {wc : Word32} (illegal : ¬ LegalWc wc) (flg : Byte) (s : State) :
    exec (.encode flg wc) s = .next { s with response := some 0x0000000300000000#64 } := by
  have packs : commandBody (.encode flg wc) s = (Ended.failed .workchain s).andThen b64encBody :=
    congrArg (·.andThen b64encBody) (packBody_of_not_legalWc illegal flg s)
  exact exec_of_commandBody_workchain (packs.trans (Ended.andThen_failed (by decide) 0#32 s b64encBody))

/-- Settles O29: both commands start with the body of `PACK`, and that of `B64ENC` never fails. -/
theorem workchainRangeIsChecked : Obligations.WorkchainRangeIsChecked := by
  constructor
  · intro s flg wc legal
    obtain ⟨account, ha⟩ := s.buf.exists_slice 2 32 (by decide)
    exact ⟨⟨_, exec_pack_of_legalWc legal ha flg, rfl⟩, ⟨_, exec_encode_of_legalWc legal ha flg, rfl⟩⟩
  · intro s flg wc illegal
    exact ⟨exec_pack_of_not_legalWc illegal flg s, exec_encode_of_not_legalWc illegal flg s⟩

/-! ### A text decodes to the bytes it was made from (42_base64.md R81) -/

/-- A character written for a value has that value (30_encoding.md R57). -/
theorem b64val_b64chr (v : Sextet) : b64val (b64chr v) = some v :=
  (b64val_eq_some_iff_b64chr _ v).mpr (.inl rfl)

theorem textValues_map_b64chr (vs : List Sextet) : textValues (vs.map b64chr) = some vs := by
  induction vs with
  | nil => rfl
  | cons v vs ih => simp only [List.map_cons, textValues, b64val_b64chr, ih]

/-- The two halves of the grouping are inverse on one group of three bytes (30_encoding.md R58). -/
theorem group_of_sextets (x y z : Byte) :
    x.extractLsb' 2 6 ++ (x.extractLsb' 0 2 ++ y.extractLsb' 4 4).extractLsb' 4 2 = x ∧
    (x.extractLsb' 0 2 ++ y.extractLsb' 4 4).extractLsb' 0 4 ++
      (y.extractLsb' 0 4 ++ z.extractLsb' 6 2).extractLsb' 2 4 = y ∧
    (y.extractLsb' 0 4 ++ z.extractLsb' 6 2).extractLsb' 0 2 ++ z.extractLsb' 0 6 = z := by
  simp only [BitVec.extractLsb'_append_eq_left, BitVec.extractLsb'_append_eq_right]
  exact ⟨BitVec.extractLsb'_append_extractLsb' (w := 6), BitVec.extractLsb'_append_extractLsb' (w := 4),
    BitVec.extractLsb'_append_extractLsb' (w := 2)⟩

theorem groupBytes_sextets (n : Nat) (bs : List Byte) (h : bs.length = 3 * n) : groupBytes (sextets bs) = bs := by
  induction n generalizing bs with
  | zero =>
    obtain rfl : bs = [] := List.length_eq_zero_iff.mp h
    rfl
  | succ n ih =>
    match bs, h with
    | x :: y :: z :: rest, h =>
      obtain ⟨first, second, third⟩ := group_of_sextets x y z
      have hrest : rest.length = 3 * n := by
        simp only [List.length_cons] at h
        omega
      rw [sextets, groupBytes, first, second, third, ih rest hrest]

/-! ### DECODE -/

/-- Where the base64 stage succeeds, `DECODE` is `CHECK` on the bytes it left (44_codec.md R91). -/
theorem exec_decode_of_done {s t : State} {d : Word32} (h : b64decBody s = .done t d) :
    exec .decode s = exec .check t := by
  have checks : commandBody .decode s = commandBody .check t :=
    congrArg (·.andThen checkBody) (decodeTextBody_of_done h)
  rw [exec_eq_finish_commandBody, checks, ← exec_eq_finish_commandBody]

/-- `DECODE` of a text that was made from 36 bytes is `CHECK` of these bytes. -/
theorem exec_decode_of_b64Encode {s : State} {bytes : List Byte} (hbytes : bytes.length = 36) (hlen : s.tlen = 48#7)
    (ht : s.txt.slice 0 48 = some (b64Encode bytes)) :
    exec .decode s = exec .check (s.setBuf (s.buf.store 0 bytes)) := by
  have hv : textValues (b64Encode bytes) = some (sextets bytes) := textValues_map_b64chr _
  have hdone := b64decBody_of_values (by rw [hlen]; rfl) ht hv
  rw [groupBytes_sextets 12 bytes hbytes] at hdone
  exact exec_decode_of_done hdone

/-- Where the text of a record stands, `DECODE` puts the record back and checks it. -/
theorem exec_decode_of_encoded {s u : State} {r : Record} (ha : s.buf.slice 2 32 = some r.account)
    (htxt : u.txt = (s.encoded r).txt) (htlen : u.tlen = 48#7) :
    exec .decode u = exec .check (u.setBuf (s.buf.around r)) := by
  have hbytes : r.bytes.length = 36 := Buffer.slice_length (Buffer.slice_around ha)
  have hchars : (b64Encode r.bytes).length = 48 := b64Encode_length r.bytes hbytes
  have text : u.txt.slice 0 48 = some (b64Encode r.bytes) := by
    rw [htxt, ← hchars]
    exact s.txt.slice_store (by rw [hchars]; decide)
  rw [exec_decode_of_b64Encode hbytes htlen text, u.buf.store_bytes_eq_around ha]

/-! ### Sequences of commands -/

theorem execAll_cons {i : Instr} {is : List Instr} {s t : State} (h : exec i s = .next t) :
    execAll (i :: is) s = execAll is t := by
  rw [execAll, h]

theorem execAll_append {is js : List Instr} {s t : State} (h : execAll is s = .next t) :
    execAll (is ++ js) s = execAll js t := by
  induction is generalizing s with
  | nil =>
    obtain rfl : s = t := Host.Outcome.next.inj h
    rfl
  | cons i is ih =>
    obtain ⟨u, hu⟩ := exec_answers i s
    rw [execAll_cons hu] at h
    rw [List.cons_append, execAll_cons hu, ih h]

theorem exec_text_of_leavesText {i : Instr} {s t : State} (hi : LeavesText i) (h : exec i s = .next t) :
    t.txt = s.txt ∧ t.tlen = s.tlen := by
  obtain ⟨-, htxt, htlen, -⟩ := elementsAreWrittenOnlyByTheNamedCommands i s t h
  constructor
  · refine htxt ?_ ?_ ?_ <;> intros <;> rintro rfl <;> exact hi
  · refine htlen ?_ ?_ ?_ <;> intros <;> rintro rfl <;> exact hi

/-- Commands that write neither `TXT` nor `TLEN` all answer, and leave both as they were. -/
theorem execAll_of_leavesText {is : List Instr} (his : ∀ i ∈ is, LeavesText i) (s : State) :
    ∃ t, execAll is s = .next t ∧ t.txt = s.txt ∧ t.tlen = s.tlen := by
  induction is generalizing s with
  | nil => exact ⟨s, rfl, rfl, rfl⟩
  | cons i is ih =>
    obtain ⟨u, hu⟩ := exec_answers i s
    obtain ⟨htxt, htlen⟩ := exec_text_of_leavesText (his i List.mem_cons_self) hu
    obtain ⟨t, ht, htxt', htlen'⟩ := ih (fun j hj => his j (List.mem_cons_of_mem i hj)) u
    exact ⟨t, (execAll_cons hu).trans ht, htxt'.trans htxt, htlen'.trans htlen⟩

/-- Settles O46: the text of the record stands unchanged before `DECODE`, which is then `CHECK` of that record. -/
theorem decodeGivesBackWhatEncodeTook : Obligations.DecodeGivesBackWhatEncodeTook := by
  intro s flg wc between legal hbetween
  obtain ⟨account, ha⟩ := s.buf.exists_slice 2 32 (by decide)
  obtain ⟨u, hu, htxt, htlen⟩ := execAll_of_leavesText hbetween
    ((s.encoded (packRecord flg wc account)).answer 0x0000000000000000#64)
  obtain ⟨t, ht, hresp, ⟨valid, bnc, tst, hwc, htag⟩, -, hbuf⟩ := exec_check_of_packRecord
    (s := u.setBuf (s.buf.around (packRecord flg wc account))) legal (Buffer.record_around ha)
  have encodes : execAll ([.encode flg wc] ++ between) s = .next u :=
    (execAll_cons (exec_encode_of_legalWc legal ha flg)).trans hu
  have decodes : execAll [.decode] u = .next t := execAll_cons ((exec_decode_of_encoded ha htxt htlen).trans ht)
  refine ⟨t, (execAll_append encodes).trans decodes, hresp, valid, bnc, tst, hwc, htag, fun a h2 h34 => ?_⟩
  rw [State.readByte_record, State.readByte_record, hbuf]
  exact s.buf.read_around _ h2 (.inl h34)

end Sys2Proof.Machine
end

section
/-! The base64 commands (spec/42_base64.md R75 to R81). The idea: `B64ENC` and `B64DEC` are each said once, by the list
of the bytes in `BUF` and the list of the characters in `TXT`. On these lists `sextets` and `groupBytes` are inverse,
and so are the two character tables, but for `+` and `/`, which come back as `-` and `_`. -/

namespace Sys2Proof.Machine

/-! ### Slices from address 0 -/

/-- Below its length, a slice from address 0 lists the bytes read. -/
theorem Buffer.read_of_slice {size : Nat} {b : Buffer size} {n : Nat} {bs : List Byte} (h : b.slice 0 n = some bs)
    {a : Nat} (ha : a < n) : b.read a = bs[a]? := by
  obtain ⟨-, hread⟩ := (b.slice_eq_some_iff 0 n bs).mp h
  rw [← hread a ha, Nat.zero_add]

/-- Bytes of a given number, stored from address 0, are the slice of that length. -/
theorem Buffer.slice_store_zero {size : Nat} (b : Buffer size) {bs : List Byte} {n : Nat} (hbs : bs.length = n)
    (hn : n ≤ size) : (b.store 0 bs).slice 0 n = some bs := by
  subst hbs
  exact b.slice_store (by omega)

/-! ### The two halves of the grouping (30_encoding.md R58) -/

/-- The two halves of the grouping are inverse on one group of four values (30_encoding.md R58). -/
theorem sextets_of_group (v0 v1 v2 v3 : Sextet) :
    (v0 ++ v1.extractLsb' 4 2).extractLsb' 2 6 = v0 ∧
    (v0 ++ v1.extractLsb' 4 2).extractLsb' 0 2 ++
      (v1.extractLsb' 0 4 ++ v2.extractLsb' 2 4).extractLsb' 4 4 = v1 ∧
    (v1.extractLsb' 0 4 ++ v2.extractLsb' 2 4).extractLsb' 0 4 ++
      (v2.extractLsb' 0 2 ++ v3).extractLsb' 6 2 = v2 ∧
    (v2.extractLsb' 0 2 ++ v3).extractLsb' 0 6 = v3 := by
  simp only [BitVec.extractLsb'_append_eq_left, BitVec.extractLsb'_append_eq_right, true_and, and_true]
  exact ⟨BitVec.extractLsb'_append_extractLsb' (w := 2), BitVec.extractLsb'_append_extractLsb' (w := 4)⟩

theorem sextets_groupBytes (n : Nat) (vs : List Sextet) (h : vs.length = 4 * n) : sextets (groupBytes vs) = vs := by
  induction n generalizing vs with
  | zero =>
    obtain rfl : vs = [] := List.length_eq_zero_iff.mp h
    rfl
  | succ n ih =>
    match vs, h with
    | v0 :: v1 :: v2 :: v3 :: rest, h =>
      obtain ⟨first, second, third, fourth⟩ := sextets_of_group v0 v1 v2 v3
      have hrest : rest.length = 4 * n := by
        simp only [List.length_cons] at h
        omega
      rw [groupBytes, sextets, first, second, third, fourth, ih rest hrest]

/-- The text of a record is the encoding half of the grouping of its bytes. -/
theorem groupsEncoded_of_slices {b : Buffer 36} {m : Buffer 64} {bytes : List Byte} (hb : b.slice 0 36 = some bytes)
    (hm : m.slice 0 48 = some (b64Encode bytes)) : GroupsEncoded b.read m.read := by
  intro g x y z hg hx hy hz
  rw [Buffer.read_of_slice hb (by omega)] at hx hy hz
  obtain ⟨h0, h1, h2, h3⟩ := sextets_group bytes g x y z hx hy hz
  have character {a : Nat} {v : Sextet} (ha : a < 48) (hv : (sextets bytes)[a]? = some v) :
      m.read a = some (b64chr v) := by
    rw [Buffer.read_of_slice hm ha, b64Encode, List.getElem?_map, hv, Option.map_some]
  exact ⟨character (by omega) h0, character (by omega) h1, character (by omega) h2, character (by omega) h3⟩

/-- The bytes of a text are the decoding half of the grouping of its values. -/
theorem groupsDecoded_of_slices {m : Buffer 64} {b : Buffer 36} {text : List Byte} {vs : List Sextet}
    (hm : m.slice 0 48 = some text) (hvs : textValues text = some vs) (hb : b.slice 0 36 = some (groupBytes vs)) :
    GroupsDecoded m.read b.read := by
  intro g c0 c1 c2 c3 v0 v1 v2 v3 hg hc0 hc1 hc2 hc3 hv0 hv1 hv2 hv3
  have value {a : Nat} {c : Byte} {v : Sextet} (ha : a < 48) (hc : m.read a = some c) (hv : b64val c = some v) :
      vs[a]? = some v := by
    rw [← hv, (textValues_eq_some hvs).2 a c (by rw [← hc, Buffer.read_of_slice hm ha])]
  obtain ⟨h0, h1, h2⟩ := groupBytes_group vs g v0 v1 v2 v3 (value (by omega) hc0 hv0) (value (by omega) hc1 hv1)
    (value (by omega) hc2 hv2) (value (by omega) hc3 hv3)
  rw [Buffer.read_of_slice hb (by omega), Buffer.read_of_slice hb (by omega), Buffer.read_of_slice hb (by omega)]
  exact ⟨h0, h1, h2⟩

/-! ### The characters (30_encoding.md R56, R57) -/

/-- A character that the encoder writes is a letter, a digit, `-` or `_`. -/
theorem b64chr_urlSafe (v : Sextet) :
    0x41 ≤ (b64chr v).toNat ∧ (b64chr v).toNat ≤ 0x5A ∨ 0x61 ≤ (b64chr v).toNat ∧ (b64chr v).toNat ≤ 0x7A ∨
      0x30 ≤ (b64chr v).toNat ∧ (b64chr v).toNat ≤ 0x39 ∨ (b64chr v).toNat = 0x2D ∨ (b64chr v).toNat = 0x5F := by
  obtain upper | lower | digit | minus | underscore := (b64chr_eq_iff v (b64chr v)).mp rfl <;> omega

/-- The encoder never writes `+` or `/`. -/
theorem b64chr_ne_synonym (v : Sextet) : b64chr v ≠ 0x2B#8 ∧ b64chr v ≠ 0x2F#8 := by
  have safe := b64chr_urlSafe v
  constructor <;> intro h <;> rw [h] at safe <;> exact absurd safe (by decide)

/-- The character of a character's value is that character, but `-` for `+` and `_` for `/`. -/
theorem b64chr_of_b64val {c : Byte} {v : Sextet} (h : b64val c = some v) :
    b64chr v = if c = 0x2B#8 then 0x2D#8 else if c = 0x2F#8 then 0x5F#8 else c := by
  obtain rfl | ⟨rfl, rfl⟩ | ⟨rfl, rfl⟩ := (b64val_eq_some_iff_b64chr c v).mp h
  · obtain ⟨plus, slash⟩ := b64chr_ne_synonym v
    rw [if_neg plus, if_neg slash]
  · rfl
  · rfl

/-! ### The two commands -/

/-- `B64ENC` always answers OK; it leaves the text of the 36 bytes in `TXT` and writes nothing but its first 48
characters and `TLEN` (42_base64.md R75). -/
theorem exec_b64enc (s : State) :
    ∃ bytes t, s.buf.slice 0 36 = some bytes ∧ exec .b64enc s = .next t ∧
      t.txt.slice 0 48 = some (b64Encode bytes) ∧ (∀ a, 48 ≤ a → t.txt.read a = s.txt.read a) ∧
      t = { s with txt := t.txt, tlen := 48#7, response := some 0x0000000000000000#64 } := by
  obtain ⟨bytes, hbytes, hb⟩ := b64encBody_eq s
  have hlen : (b64Encode bytes).length = 48 := b64Encode_length bytes (Buffer.slice_length hbytes)
  exact ⟨bytes, _, hbytes, exec_of_commandBody_done hb, s.txt.slice_store_zero hlen (by decide),
    fun a ha => s.txt.read_store_of_outside 0 _ a (.inr (by omega)), rfl⟩

/-- `B64DEC` of a text with values answers OK; it leaves their bytes in `BUF` and writes nothing else
(42_base64.md R77). -/
theorem exec_b64dec_of_values {s : State} {text : List Byte} {vs : List Sextet} (hlen : s.tlen = 48#7)
    (ht : s.txt.slice 0 48 = some text) (hvs : textValues text = some vs) :
    ∃ t, exec .b64dec s = .next t ∧ t.buf.slice 0 36 = some (groupBytes vs) ∧
      t = { s with buf := t.buf, response := some 0x0000000000000000#64 } :=
  ⟨_, exec_of_commandBody_done (b64decBody_of_values (by rw [hlen]; rfl) ht hvs),
    s.buf.slice_store_zero (groupBytes_length_of_text ht hvs) (Nat.le_refl 36), rfl⟩

/-- An invalid character in `TXT` is one in the list of its first 48 characters. -/
theorem textHasInvalid_iff {s : State} {text : List Byte} (ht : s.txt.slice 0 48 = some text) :
    TextHasInvalid s ↔ textValues text = none := by
  rw [textValues_eq_none_iff]
  constructor
  · rintro ⟨i, c, hi, hc, invalid⟩
    exact ⟨i, c, (Buffer.read_of_slice ht hi).symm.trans hc, invalid⟩
  · rintro ⟨i, c, hc, invalid⟩
    have hi : i < 48 := Buffer.slice_length ht ▸ (List.getElem?_eq_some_iff.mp hc).1
    exact ⟨i, c, hi, (Buffer.read_of_slice ht hi).trans hc, invalid⟩

/-- Without an invalid character among its first 48, `TXT` has values. -/
theorem exists_textValues {s : State} (valid : ¬ TextHasInvalid s) :
    ∃ text vs, s.txt.slice 0 48 = some text ∧ textValues text = some vs := by
  obtain ⟨text, ht⟩ := s.txt.exists_slice 0 48 (by decide)
  rw [textHasInvalid_iff ht] at valid
  obtain ⟨vs, hvs⟩ := Option.ne_none_iff_exists'.mp valid
  exact ⟨text, vs, ht, hvs⟩

/-- Settles O35: the word is the encoding of `B64ENC`, and the groups of the bytes are those of their text. -/
theorem b64encWritesTheText : Obligations.B64encWritesTheText := by
  refine ⟨decode_eq_ok_iff.mpr ⟨rfl, rfl⟩, fun s => ?_⟩
  obtain ⟨bytes, t, hbytes, ht, text, above, frame⟩ := exec_b64enc s
  exact ⟨t, ht, groupsEncoded_of_slices hbytes text, above, frame⟩

/-- Settles O36: each of the characters is one of the encoding table. -/
theorem encodedTextIsUrlSafe : Obligations.EncodedTextIsUrlSafe := by
  intro s t h
  obtain ⟨bytes, t', -, ht', text, -, frame⟩ := exec_b64enc s
  obtain rfl : t' = t := Host.Outcome.next.inj (ht'.symm.trans h)
  refine ⟨by rw [frame], fun a ha => ?_⟩
  have hchars : a < (b64Encode bytes).length := by rwa [Buffer.slice_length text]
  obtain ⟨v, -, hv⟩ := List.mem_map.mp (List.getElem_mem hchars)
  refine ⟨b64chr v, ?_, b64chr_urlSafe v⟩
  rw [hv, ← List.getElem?_eq_getElem hchars]
  exact Buffer.read_of_slice text ha

/-- Settles O37: the three cases are those of the body, and the groups of the values are those of their bytes. -/
theorem b64decReplacesTheRecordOrNothing : Obligations.B64decReplacesTheRecordOrNothing := by
  refine ⟨decode_eq_ok_iff.mpr ⟨rfl, rfl⟩, fun s hlen => ?_, fun s hlen invalid => ?_, fun s hlen valid => ?_⟩
  · have hb : commandBody .b64dec s = .failed .length s :=
      b64decBody_of_length fun h => hlen (BitVec.eq_of_toNat_eq h)
    rw [exec_of_commandBody hb, responseWord_zero]
    rfl
  · obtain ⟨text, ht⟩ := s.txt.exists_slice 0 48 (by decide)
    have hb : commandBody .b64dec s = .failed .alphabet s :=
      b64decBody_of_invalid (by rw [hlen]; rfl) ht ((textHasInvalid_iff ht).mp invalid)
    rw [exec_of_commandBody hb, responseWord_zero]
    rfl
  · obtain ⟨text, vs, ht, hvs⟩ := exists_textValues valid
    obtain ⟨t, hdec, hbuf, frame⟩ := exec_b64dec_of_values hlen ht hvs
    exact ⟨t, hdec, groupsDecoded_of_slices ht hvs hbuf, frame⟩

/-! ### One command after the other (42_base64.md R81) -/

/-- Settles O38: the values of the text are those of the record, and their bytes are the record. -/
theorem encodeThenDecodeKeepsTheRecord : Obligations.EncodeThenDecodeKeepsTheRecord := by
  intro s
  obtain ⟨bytes, t, hbytes, henc, text, -, frame⟩ := exec_b64enc s
  obtain ⟨u, hdec, hbuf, frame'⟩ := exec_b64dec_of_values (by rw [frame]) text (textValues_map_b64chr (sextets bytes))
  rw [groupBytes_sextets 12 bytes (Buffer.slice_length hbytes)] at hbuf
  exact ⟨u, (execAll_cons henc).trans (execAll_cons hdec), by rw [frame'],
    Buffer.eq_of_slice_eq (hbuf.trans hbytes.symm)⟩

/-- Settles O39: the bytes decoded have the values of the text, so each character is that of the value of the old
one. -/
theorem decodeThenEncodeNormalisesTheText : Obligations.DecodeThenEncodeNormalisesTheText := by
  intro s hlen valid
  obtain ⟨text, vs, htext, hvs⟩ := exists_textValues valid
  obtain ⟨hcount, hvalues⟩ := textValues_eq_some hvs
  obtain ⟨t, hdec, hbuf, frame⟩ := exec_b64dec_of_values hlen htext hvs
  obtain ⟨bytes, u, hbytes, henc, text', above, -⟩ := exec_b64enc t
  obtain rfl : groupBytes vs = bytes := Option.some.inj (hbuf.symm.trans hbytes)
  rw [b64Encode, sextets_groupBytes 12 vs (hcount.trans (Buffer.slice_length htext))] at text'
  refine ⟨u, (execAll_cons hdec).trans (execAll_cons henc), fun a c hc => ?_⟩
  rw [State.readByte_text] at hc ⊢
  by_cases ha : a < 48
  · have hget : text[a]? = some c := (Buffer.read_of_slice htext ha).symm.trans hc
    obtain ⟨v, hv⟩ : ∃ v, vs[a]? = some v :=
      ⟨_, List.getElem?_eq_getElem (by rwa [hcount, Buffer.slice_length htext])⟩
    have hcv : b64val c = some v := (hvalues a c hget).trans hv
    rw [Buffer.read_of_slice text' ha, List.getElem?_map, hv, Option.map_some, b64chr_of_b64val hcv]
    simp only [ha, true_and]
  · have same : u.txt.read a = some c := by
      rw [above a (by omega), frame]
      exact hc
    simpa only [ha, false_and, if_false] using same

/-- A byte sequence of whole groups is what its text decodes to (42_base64.md R81). -/
theorem b64Decode_b64Encode {n : Nat} {bs : List Byte} (h : bs.length = 3 * n) :
    b64Decode (b64Encode bs) = some bs := by
  rw [b64Decode, b64Encode, textValues_map_b64chr, Option.map_some, groupBytes_sextets n bs h]

/-- Settles O40: the two texts are one list of characters, and it decodes to both contents. -/
theorem encodingIsInjective : Obligations.EncodingIsInjective := by
  intro s s' t t' h h' same
  obtain ⟨bytes, u, hbytes, hu, text, -, -⟩ := exec_b64enc s
  obtain ⟨bytes', u', hbytes', hu', text', -, -⟩ := exec_b64enc s'
  obtain rfl : u = t := Host.Outcome.next.inj (hu.symm.trans h)
  obtain rfl : u' = t' := Host.Outcome.next.inj (hu'.symm.trans h')
  have slices : u.txt.slice 0 48 = u'.txt.slice 0 48 :=
    Buffer.slice_congr fun k hk => same (0 + k) (by omega)
  have texts : b64Encode bytes = b64Encode bytes' := Option.some.inj (text.symm.trans (slices.trans text'))
  have decoded := b64Decode_b64Encode (n := 12) (Buffer.slice_length hbytes)
  rw [texts, b64Decode_b64Encode (n := 12) (Buffer.slice_length hbytes')] at decoded
  exact Buffer.eq_of_slice_eq (hbytes.trans (decoded.symm.trans hbytes'.symm))

end Sys2Proof.Machine
end

section
/-! Validation (spec/43_check.md R85). The idea: the bytes in `BUF` are those of its record, so each byte the rule names
by its index is a field of that record, and the two comparisons of the rule are `Record.sumMatches`. -/

namespace Sys2Proof.Machine

/-! ### The fields of a record by their index (30_encoding.md R50) -/

/-- The tag byte, the workchain byte and the 32 account bytes. -/
theorem Record.covered_length {r : Record} (hacc : r.account.length = 32) : r.covered.length = 34 := by
  simp only [Record.covered, List.length_cons, hacc]

/-- The checksum covers the bytes before its own two. -/
theorem Record.take_bytes {r : Record} (hacc : r.account.length = 32) : r.bytes.take 34 = r.covered :=
  List.take_left' (Record.covered_length hacc)

/-- The last two bytes of a record are its checksum bytes. -/
theorem Record.getD_bytes_sum {r : Record} (hacc : r.account.length = 32) :
    r.bytes.getD 34 0 = r.sumHigh ∧ r.bytes.getD 35 0 = r.sumLow := by
  simp [Record.bytes, Record.covered_length hacc]

/-- The account identifier of the record in `BUF` has 32 bytes. -/
theorem Buffer.account_length_of_record {b : Buffer 36} {r : Record} (h : b.record = some r) :
    r.account.length = 32 := by
  have hlen : r.bytes.length = 36 := Buffer.slice_length (Buffer.slice_of_record h)
  simpa [Record.bytes, Record.covered] using hlen

/-! ### CHECK -/

/-- `STATUS` of a valid record, by the two bits of the tag byte that it shows. -/
theorem validStatus_eq (tag : Byte) :
    validStatus tag = 0b00000#5 ++ BitVec.ofBool (tag.getLsbD 7) ++ BitVec.ofBool (!tag.getLsbD 6) ++ 0b1#1 := by
  rw [validStatus, tagIsTestnet_eq, tagIsBounceable_eq]

/-- A record's checksum matches when bytes 34 and 35 are the high and the low byte of the checksum of the others. -/
theorem Record.sumMatches_iff_bytes {r : Record} (hacc : r.account.length = 32) :
    r.sumMatches = true ↔
      r.bytes.getD 34 0 = (crc16 (r.bytes.take 34)).extractLsb' 8 8 ∧
        r.bytes.getD 35 0 = (crc16 (r.bytes.take 34)).extractLsb' 0 8 := by
  obtain ⟨high, low⟩ := Record.getD_bytes_sum hacc
  rw [high, low, Record.take_bytes hacc, Record.sumMatches, Bool.and_eq_true, beq_iff_eq, beq_iff_eq]
  rfl

/-- What `CHECK` leaves and answers for a record is what the rule says of the record's bytes. -/
theorem checkedState_bytes (s : State) {r : Record} (hacc : r.account.length = 32) :
    checkedState s r.bytes =
      (s.checked r).answer (responseWord (if r.sumMatches then .ok else .checksum) 0#32) := by
  have matching := Record.sumMatches_iff_bytes hacc
  unfold checkedState
  cases valid : r.sumMatches with
  | true =>
    rw [if_pos (matching.mp valid), s.checked_of_match valid, validStatus_eq, if_pos rfl, responseWord_zero,
      Record.take_bytes hacc]
    rfl
  | false =>
    rw [if_neg (mt matching.mpr (by simp [valid])), s.checked_of_mismatch valid, if_neg Bool.false_ne_true,
      responseWord_zero, Record.take_bytes hacc]
    rfl

/-- `CHECK` by the list of the bytes in `BUF`. -/
theorem exec_check_of_slice {s : State} {bytes : List Byte} (h : s.buf.slice 0 36 = some bytes) :
    exec .check s = .next (checkedState s bytes) := by
  obtain ⟨r, hr, hb⟩ := checkBody_eq s
  obtain rfl : r.bytes = bytes := Option.some.inj ((Buffer.slice_of_record hr).symm.trans h)
  rw [checkedState_bytes s (Buffer.account_length_of_record hr)]
  exact exec_of_commandBody hb

/-- Settles O41: the word is the encoding of `CHECK`, and 36 bytes that `BUF` holds are all its bytes. -/
theorem checkPublishesOrClears : Obligations.CheckPublishesOrClears := by
  refine ⟨decode_eq_ok_iff.mpr ⟨rfl, rfl⟩, fun s bytes hlen hbytes => exec_check_of_slice ?_⟩
  exact hlen ▸ (s.holds_iff_slice .record 0 bytes).mp hbytes

end Sys2Proof.Machine
end

section
/-! The composite commands (spec/44_codec.md R90 to R92). The idea: each is one body after the other, so what it leaves
is what the parts leave. A command does not look at the response that waits, so the response that the first part gives
when it is issued alone makes no difference to the second. -/

namespace Sys2Proof.Machine

/-! ### ENCODE -/

/-- What `ENCODE` leaves in the buffers, where the record's account identifier stands: the record's bytes in `BUF`, and
their text in `TXT` below the characters that stay (44_codec.md R90). -/
theorem State.encoded_buffers {s : State} {r : Record} (ha : s.buf.slice 2 32 = some r.account) :
    (s.encoded r).buf.slice 0 36 = some r.bytes ∧ (s.encoded r).txt.slice 0 48 = some (b64Encode r.bytes) ∧
      ∀ a, 48 ≤ a → (s.encoded r).txt.read a = s.txt.read a := by
  have record : (s.buf.around r).slice 0 36 = some r.bytes := Buffer.slice_around ha
  have hchars : (b64Encode r.bytes).length = 48 := b64Encode_length r.bytes (Buffer.slice_length record)
  exact ⟨record, s.txt.slice_store_zero hchars (by decide),
    fun a h => s.txt.read_store_of_outside 0 _ a (.inr (by omega))⟩

/-- A state holds the 36 bytes that are the whole of its `BUF`. -/
theorem State.holds_record_of_slice {s : State} {bytes : List Byte} (h : s.buf.slice 0 36 = some bytes) :
    s.holds .record 0 bytes := by
  rw [State.holds_iff_slice, Buffer.slice_length h]
  exact h

/-- Settles O43: the state `ENCODE` leaves has the record of the operands in `BUF`, and its text in `TXT`. -/
theorem encodeBuildsTheRecordAndItsText : Obligations.EncodeBuildsTheRecordAndItsText := by
  refine ⟨fun flg wc legal => decode_eq_ok_iff.mpr ⟨beq_iff_eq.mpr legal, rfl⟩, ?_,
    fun s flg wc illegal => exec_encode_of_not_legalWc illegal flg s⟩
  intro s flg wc account legal hlen hacc
  have ha : s.buf.slice 2 32 = some (packRecord flg wc account).account :=
    hlen ▸ (s.holds_iff_slice .record 2 account).mp hacc
  obtain ⟨record, text, above⟩ := State.encoded_buffers ha
  refine ⟨_, exec_encode_of_legalWc legal ha flg, ?_, fun a h => s.buf.read_around _ (by omega) (.inr h),
    groupsEncoded_of_slices record text, above, ?_⟩
  · exact packRecord_bytes flg wc account ▸ State.holds_record_of_slice record
  · rw [← packRecord_covered]
    rfl

/-! ### DECODE -/

/-- A response without data is the word 0 exactly where the command succeeded (60_exceptions.md R120). -/
theorem responseWord_zero_eq_zero_iff (e : ErrCode) : responseWord e 0#32 = 0x0000000000000000#64 ↔ e = .ok := by
  cases e <;> decide

/-- How `B64DEC` ended: with a code, and with the response word of that code alone. -/
theorem b64decBody_of_exec {s t : State} (h : exec .b64dec s = .next t) :
    ∃ e u, b64decBody s = .ended e 0#32 u ∧ t = u.answer (responseWord e 0#32) := by
  obtain ⟨e, u, hb⟩ := b64decBody_silent s
  exact ⟨e, u, hb, Host.Outcome.next.inj (h.symm.trans (exec_of_commandBody hb))⟩

/-- Where `B64DEC` fails, `DECODE` does as it does and clears the result registers as well (44_codec.md R92). -/
theorem exec_decode_of_b64dec_failed {s t : State} (h : exec .b64dec s = .next t)
    (hfail : t.response ≠ some 0x0000000000000000#64) :
    exec .decode s = .next { t with status := 0x00#8, tag := 0x00#8, wc := 0x00000000#32 } := by
  obtain ⟨e, u, hb, rfl⟩ := b64decBody_of_exec h
  have he : e ≠ .ok := fun he => hfail (congrArg some ((responseWord_zero_eq_zero_iff e).mpr he))
  have stops : commandBody .decode s = .failed e u.clearResult :=
    (congrArg (·.andThen checkBody) (decodeTextBody_of_failed he hb)).trans (Ended.andThen_failed he 0#32 _ checkBody)
  exact exec_of_commandBody stops

theorem checkedState_buf (s : State) (bytes : List Byte) : (checkedState s bytes).buf = s.buf := by
  unfold checkedState
  dsimp only
  split <;> rfl

/-- `DECODE` of a text with values puts their bytes in `BUF` and leaves what `CHECK` makes of them (44_codec.md R91). -/
theorem exec_decode_of_values {s : State} {text : List Byte} {vs : List Sextet} (hlen : s.tlen = 48#7)
    (ht : s.txt.slice 0 48 = some text) (hvs : textValues text = some vs) :
    ∃ t, exec .decode s = .next t ∧ t.buf.slice 0 36 = some (groupBytes vs) ∧
      t = checkedState { s with buf := t.buf } (groupBytes vs) := by
  have decoded : (s.buf.store 0 (groupBytes vs)).slice 0 36 = some (groupBytes vs) :=
    s.buf.slice_store_zero (groupBytes_length_of_text ht hvs) (Nat.le_refl 36)
  have checks := exec_decode_of_done (b64decBody_of_values (by rw [hlen]; rfl) ht hvs)
  refine ⟨_, checks.trans (exec_check_of_slice decoded), ?_, ?_⟩ <;> rw [checkedState_buf]
  · exact decoded
  · rfl

/-- Settles O44: the three cases are those of `B64DEC`, and `DECODE` goes on from the third with `CHECK`. -/
theorem decodeReadsTheTextThenChecks : Obligations.DecodeReadsTheTextThenChecks := by
  obtain ⟨-, wrongLength, invalidText, -⟩ := b64decReplacesTheRecordOrNothing
  refine ⟨decode_eq_ok_iff.mpr ⟨rfl, rfl⟩,
    fun s hlen => exec_decode_of_b64dec_failed (wrongLength s hlen) (by simp),
    fun s hlen invalid => exec_decode_of_b64dec_failed (invalidText s hlen invalid) (by simp),
    fun s hlen valid => ?_⟩
  obtain ⟨text, vs, ht, hvs⟩ := exists_textValues valid
  obtain ⟨t, hdec, hbuf, checked⟩ := exec_decode_of_values hlen ht hvs
  exact ⟨t, groupBytes vs, hdec, Buffer.slice_length hbuf, State.holds_record_of_slice hbuf,
    groupsDecoded_of_slices ht hvs hbuf, checked⟩

/-! ### The composites and their parts -/

/-- No command reads the response that waits (60_exceptions.md R127). -/
theorem exec_with_response (i : Instr) (s : State) (r : Option ResponseWord) :
    exec i { s with response := r } = exec i s := by
  obtain ⟨t, answered, h⟩ := exec_surroundedBy i s
  exact (h { s.toSurroundings with response := r }).trans (h s.toSurroundings).symm

/-- `ENCODE` with a legal workchain is `PACK` and then `B64ENC` (44_codec.md R92). -/
theorem exec_encode_eq_execAll {wc : Word32} (legal : LegalWc wc) (flg : Byte) (s : State) :
    exec (.encode flg wc) s = execAll [.pack flg wc, .b64enc] s := by
  obtain ⟨account, ha⟩ := s.buf.exists_slice 2 32 (by decide)
  have record := Buffer.slice_around (r := packRecord flg wc account) ha
  have texts := exec_of_commandBody_done (i := .b64enc)
    (b64encBody_of_bytes (s := (s.packed (packRecord flg wc account)).answer 0x0000000000000000#64) record)
  rw [exec_encode_of_legalWc legal ha flg, execAll_cons (exec_pack_of_legalWc legal ha flg), execAll_cons texts]
  rfl

/-- Settles O45: each composite runs the bodies of its parts, and the code of the base64 stage tells which of its two
ends `DECODE` takes. -/
theorem compositesAreTheirParts : Obligations.CompositesAreTheirParts := by
  refine ⟨fun s flg wc legal => exec_encode_eq_execAll legal flg s, fun s flg wc illegal => ?_,
    fun s t h hok => ?_, fun s t h hfail => exec_decode_of_b64dec_failed h hfail⟩
  · rw [exec_encode_of_not_legalWc illegal, exec_pack_of_not_legalWc illegal]
  · obtain ⟨e, u, hb, rfl⟩ := b64decBody_of_exec h
    obtain rfl : e = .ok := (responseWord_zero_eq_zero_iff e).mp (Option.some.inj hok)
    exact (exec_decode_of_done hb).trans (exec_with_response .check u _).symm

end Sys2Proof.Machine
end

section
/-! Buffer access (spec/45_buffer_access.md R95 to R99). The idea: the four byte commands are one store and one load
over the two spaces, so what they do inside and outside a space is said once, for whichever command has that body. -/

namespace Sys2Proof.Machine

/-! ### One stored byte -/

/-- The location a byte is stored to reads as that byte. -/
theorem Buffer.read_store_byte {size : Nat} (b : Buffer size) {a : Nat} (h : a < size) (v : Byte) :
    (b.store a [v]).read a = some v :=
  b.read_store_of_inside a [v] a v h (Nat.le_refl a) (by simp)

/-- Every other location reads as before. -/
theorem Buffer.read_store_byte_of_ne {size : Nat} (b : Buffer size) {a k : Nat} (h : k ≠ a) (v : Byte) :
    (b.store a [v]).read k = b.read k :=
  b.read_store_of_outside a [v] k (by rw [List.length_singleton]; omega)

/-! ### The commands by their bodies -/

/-- A command whose body fails on its index answers `E_INDEX` and changes nothing else. -/
theorem exec_of_commandBody_index {i : Instr} {s : State} (h : commandBody i s = .failed .index s) :
    exec i s = .next { s with response := some 0x0000000200000000#64 } := by
  rw [exec_of_commandBody h, responseWord_zero]
  rfl

/-- A load inside its space answers the byte there and changes nothing else. -/
theorem exec_of_loadByte_inside {i : Instr} {sp : Space} {idx : Byte} {s : State}
    (hi : commandBody i s = loadByte sp idx s) (h : idx.toNat < sp.size) :
    ∃ v, s.readByte sp idx.toNat = some v ∧ exec i s = .next { s with response := some (v.setWidth 64) } := by
  obtain ⟨v, hv⟩ := s.exists_readByte sp h
  have loads : commandBody i s = .done s (v.setWidth 32) := hi.trans (loadByte_of_read sp idx v s h hv)
  refine ⟨v, hv, ?_⟩
  rw [exec_of_commandBody loads, responseWord_ok, BitVec.setWidth_setWidth (by decide)]
  rfl

theorem exec_wrt_of_inside {idx : Byte} (h : idx.toNat < 64) (val : Byte) (s : State) :
    exec (.wrt idx val) s = .next ((s.setTxt (s.txt.store idx.toNat [val])).answer 0x0000000000000000#64) :=
  exec_of_commandBody_done (storeByte_of_inside .text idx val s h)

/-- The two cases of `SETLEN` are those of its test on the length (45_buffer_access.md R99). -/
theorem setlenBody_of_le {len : Byte} (h : len.toNat ≤ 64) (s : State) :
    setlenBody len s = .done (s.setTlen (len.setWidth 7)) 0#32 := if_pos h

theorem setlenBody_of_gt {len : Byte} (h : 64 < len.toNat) (s : State) : setlenBody len s = .failed .index s :=
  if_neg (Nat.not_le.mpr h)

theorem exec_setlen_of_le {len : Byte} (h : len.toNat ≤ 64) (s : State) :
    exec (.setlen len) s = .next ((s.setTlen (len.setWidth 7)).answer 0x0000000000000000#64) :=
  exec_of_commandBody_done (setlenBody_of_le h s)

/-! ### The five commands -/

/-- Settles O13: inside `BUF` the command is the store of one byte. -/
theorem wrbWritesOneRecordByte : Obligations.WrbWritesOneRecordByte := by
  refine ⟨fun _ _ => decode_eq_ok_iff.mpr ⟨rfl, rfl⟩, fun s idx val h => ?_,
    fun s idx val h => exec_of_commandBody_index (storeByte_of_outside .record idx val s h)⟩
  have inside : idx.toNat < 36 := Nat.lt_succ_of_le h
  exact ⟨_, exec_wrb_of_inside inside val s, s.buf.read_store_byte inside val,
    fun _ ha => s.buf.read_store_byte_of_ne ha val, rfl⟩

/-- Settles O14: the command is the load of one byte of `BUF`. -/
theorem rdbAnswersOneRecordByte : Obligations.RdbAnswersOneRecordByte :=
  ⟨fun _ => decode_eq_ok_iff.mpr ⟨rfl, rfl⟩,
    fun _ _ h => exec_of_loadByte_inside (sp := .record) rfl (Nat.lt_succ_of_le h),
    fun s idx h => exec_of_commandBody_index (loadByte_of_outside .record idx s h)⟩

/-- Settles O15: inside `TXT` the command is the store of one byte. -/
theorem wrtWritesOneCharacter : Obligations.WrtWritesOneCharacter := by
  refine ⟨fun _ _ => decode_eq_ok_iff.mpr ⟨rfl, rfl⟩, fun s idx val h => ?_,
    fun s idx val h => exec_of_commandBody_index (storeByte_of_outside .text idx val s h)⟩
  have inside : idx.toNat < 64 := Nat.lt_succ_of_le h
  exact ⟨_, exec_wrt_of_inside inside val s, s.txt.read_store_byte inside val,
    fun _ ha => s.txt.read_store_byte_of_ne ha val, rfl⟩

/-- Settles O16: the command is the load of one byte of `TXT`, and `TLEN` is no part of it. -/
theorem rdtAnswersOneCharacter : Obligations.RdtAnswersOneCharacter :=
  ⟨fun _ => decode_eq_ok_iff.mpr ⟨rfl, rfl⟩,
    fun _ _ h => exec_of_loadByte_inside (sp := .text) rfl (Nat.lt_succ_of_le h),
    fun s idx h => exec_of_commandBody_index (loadByte_of_outside .text idx s h)⟩

/-- Settles O17: a length up to 64 fits the 7 bits of `TLEN`. -/
theorem setlenSetsTheLength : Obligations.SetlenSetsTheLength := by
  refine ⟨fun _ => decode_eq_ok_iff.mpr ⟨rfl, rfl⟩, fun s len h => ⟨_, exec_setlen_of_le h s, ?_, rfl⟩,
    fun s len h => exec_of_commandBody_index (setlenBody_of_gt h s)⟩
  have fits : len.toNat < 2 ^ 7 := by omega
  rw [State.answer_tlen, State.setTlen_tlen, BitVec.toNat_setWidth, Nat.mod_eq_of_lt fits]

end Sys2Proof.Machine
end

section
/-! The system commands (spec/46_system.md R102, R103). The idea: a word that decodes is the encoding of its command,
so its opcode is that of the command, and `RDR` has one case per register that there is and one for all other numbers. -/

namespace Sys2Proof.Machine

/-! ### NOP -/

/-- Of the commands only `NOP` has opcode 0. -/
theorem eq_nop_of_fieldOp_encode {i : Instr} (h : fieldOp (encode i) = 0x00#8) : i = .nop := by
  cases i with
  | nop => rfl
  | _ => exact absurd h (by rw [encode, fieldOp_c64]; decide)

theorem eq_nop_of_decode {w : CommandWord} {i : Instr} (hop : fieldOp w = 0x00#8) (h : decode w = .ok i) : i = .nop := by
  obtain ⟨-, rfl⟩ := decode_eq_ok_iff.mp h
  exact eq_nop_of_fieldOp_encode hop

/-- Settles O11: a word with opcode 0 that decoded would be the one word of `NOP`. -/
theorem nopChangesNothing : Obligations.NopChangesNothing := by
  refine ⟨decode_eq_ok_iff.mpr ⟨rfl, rfl⟩, fun w hop hne => ?_, fun _ => exec_of_commandBody_done rfl⟩
  cases hd : decode w with
  | error e => exact ⟨e, rfl⟩
  | ok i =>
    obtain rfl := eq_nop_of_decode hop hd
    have word : encode .nop = w := (decode_eq_ok_iff.mp hd).2
    exact absurd word.symm hne

/-! ### RDR -/

/-- The register space ends at number 4 (10_state.md R20). -/
theorem State.register_of_ge (s : State) {n : Nat} (h : 5 ≤ n) : s.register n = none := by
  obtain ⟨k, rfl⟩ := Nat.exists_eq_add_of_le' h
  rfl

/-- `RDR` of a register of at most 32 bits answers it, zero-extended, and changes nothing else. -/
theorem exec_rdr_of_register {s : State} {reg : Byte} {n : Nat} {v : BitVec n} (hn : n ≤ 32)
    (h : s.register reg.toNat = some (v.setWidth 32)) :
    exec (.rdr reg) s = .next { s with response := some (v.setWidth 64) } := by
  have reads : commandBody (.rdr reg) s = .done s (v.setWidth 32) := by
    rw [commandBody, rdrBody, operandNat, h]
  rw [exec_of_commandBody reads, responseWord_ok, BitVec.setWidth_setWidth (mt And.left (Nat.not_lt.mpr hn))]
  rfl

/-- `RDR` of a number that is no register's fails with `E_INDEX`. -/
theorem exec_rdr_of_no_register {s : State} {reg : Byte} (h : 5 ≤ reg.toNat) :
    exec (.rdr reg) s = .next { s with response := some 0x0000000200000000#64 } :=
  exec_of_commandBody_index (by rw [commandBody, rdrBody, operandNat, s.register_of_ge h])

/-- Settles O12, register by register. -/
theorem rdrAnswersTheRegister : Obligations.RdrAnswersTheRegister := by
  refine ⟨fun _ => decode_eq_ok_iff.mpr ⟨rfl, rfl⟩, fun s reg => ?_⟩
  split_ifs with status crc tlen tag wc
  · exact status ▸ exec_rdr_of_register (by decide) rfl
  · exact crc ▸ exec_rdr_of_register (by decide) rfl
  · exact tlen ▸ exec_rdr_of_register (by decide) rfl
  · exact tag ▸ exec_rdr_of_register (by decide) rfl
  · exact wc ▸ exec_rdr_of_register (by decide) (by rw [BitVec.setWidth_eq]; rfl)
  · exact exec_rdr_of_no_register (by bv_omega)

end Sys2Proof.Machine
end

section
/-! The raw text of an address (spec/48_host_software.md R106 to R108). The idea: the two parts of the text that is
written hold no colon, so it is cut where it was put together; and a part is read back because each of its digits is,
the decimal number by the library's `Nat.ofDigitChars`, of which `digitsValue` is the checking form. -/

namespace Sys2Proof.Machine

/-! ### Texts cut at colons -/

/-- Up to its first colon, a text is its first part. -/
theorem splitAtColons_append_colon {pre rest : List Char} (h : ∀ c ∈ pre, c ≠ ':') :
    splitAtColons (pre ++ ':' :: rest) = pre :: splitAtColons rest := by
  induction pre with
  | nil => simp only [List.nil_append, splitAtColons, if_true]
  | cons c pre ih =>
    obtain ⟨hc, hpre⟩ := List.forall_mem_cons.mp h
    simp only [List.cons_append, splitAtColons, if_neg hc, ih hpre]

theorem splitAtColons_of_forall_ne {text : List Char} (h : ∀ c ∈ text, c ≠ ':') : splitAtColons text = [text] := by
  induction text with
  | nil => rfl
  | cons c text ih =>
    obtain ⟨hc, htext⟩ := List.forall_mem_cons.mp h
    simp only [splitAtColons, if_neg hc, ih htext]

/-! ### Hexadecimal text -/

/-- A digit that is written for a value has that value, and is no colon. -/
theorem hexDigit_reads (v : BitVec 4) : hexValue (hexDigit v) = some v ∧ hexDigit v ≠ ':' := by
  revert v
  decide

theorem hexBytes_hexText (bytes : List Byte) : hexBytes (hexText bytes) = some bytes := by
  induction bytes with
  | nil => rfl
  | cons v rest ih =>
    have halves : v.extractLsb' 4 4 ++ v.extractLsb' 0 4 = v := BitVec.extractLsb'_append_extractLsb' (w := 4)
    simp only [hexText, hexBytes, hexDigit_reads, ih, halves]

theorem hexText_length (bytes : List Byte) : (hexText bytes).length = 2 * bytes.length := by
  induction bytes with
  | nil => rfl
  | cons v rest ih =>
    simp only [hexText, List.length_cons, ih]
    omega

theorem ne_colon_of_mem_hexText {bytes : List Byte} : ∀ c ∈ hexText bytes, c ≠ ':' := by
  induction bytes with
  | nil => simp [hexText]
  | cons v rest ih =>
    simp only [hexText, List.forall_mem_cons]
    exact ⟨(hexDigit_reads _).2, (hexDigit_reads _).2, ih⟩

/-- A hexadecimal text that is well-formed has two digits for each of its bytes. -/
theorem length_of_hexBytes : ∀ {text : List Char} {bytes : List Byte}, hexBytes text = some bytes →
    text.length = 2 * bytes.length
  | [], _, h => by cases h; rfl
  | [_], _, h => by cases h
  | hi :: lo :: rest, bytes, h => by
    simp only [hexBytes] at h
    split at h
    · next v w vs _ _ hrest =>
      obtain rfl := Option.some.inj h
      simp only [List.length_cons, length_of_hexBytes hrest]
      omega
    · cases h

/-! ### Decimal numbers -/

/-- Of digits only, the checking fold is the library's. -/
theorem digitsValue_of_isDigit {text : List Char} (h : ∀ c ∈ text, c.isDigit = true) (sofar : Nat) :
    digitsValue sofar text = some (Nat.ofDigitChars 10 text sofar) := by
  induction text generalizing sofar with
  | nil => rfl
  | cons c text ih =>
    obtain ⟨hc, htext⟩ := List.forall_mem_cons.mp h
    have digit : 0x30 ≤ c.toNat ∧ c.toNat ≤ 0x39 := Char.isDigit_iff_toNat.mp hc
    rw [digitsValue, if_pos digit, ih htext, Nat.ofDigitChars_cons, Nat.mul_comm]
    rfl

theorem isDigit_of_mem_decimalNat {n : Nat} : ∀ c ∈ Nat.toDigits 10 n, c.isDigit = true :=
  fun _ hc => Nat.isDigit_of_mem_toDigits (by decide) (by decide) hc

/-- A number that is not 0 is written without a leading zero. -/
theorem head_toDigits_ne_zero {n : Nat} (h : 0 < n) : (Nat.toDigits 10 n).head? ≠ some '0' := by
  induction n using Nat.strongRecOn with
  | ind n ih =>
    by_cases hn : n < 10
    · rw [Nat.toDigits_of_lt_base hn]
      simpa using h.ne'
    · have shorter := ih (n / 10) (by omega) (by omega)
      rw [Nat.toDigits_of_base_le (by decide) (by omega), List.head?_append_of_ne_nil _ Nat.toDigits_ne_nil]
      exact shorter

theorem canonicalNat_toDigits (n : Nat) : canonicalNat (Nat.toDigits 10 n) = some n := by
  have value := digitsValue_of_isDigit (isDigit_of_mem_decimalNat (n := n)) 0
  rw [Nat.ofDigitChars_ten_toDigits] at value
  cases hd : Nat.toDigits 10 n with
  | nil => exact absurd hd Nat.toDigits_ne_nil
  | cons c rest =>
    have canonical : ¬ (c = '0' ∧ rest ≠ []) := by
      rintro ⟨rfl, hrest⟩
      obtain rfl | hpos := n.eq_zero_or_pos
      · cases hd
        exact hrest rfl
      · exact head_toDigits_ne_zero hpos (by rw [hd]; rfl)
    rw [canonicalNat, if_neg canonical, ← hd, value]

theorem ne_minus_of_isDigit {c : Char} (h : c.isDigit = true) : c ≠ '-' := by
  rintro rfl
  exact absurd h (by decide)

theorem canonicalInt_decimal (w : Int) : canonicalInt (decimal w) = some w := by
  cases w with
  | ofNat n =>
    have value := canonicalNat_toDigits n
    have digits := isDigit_of_mem_decimalNat (n := n)
    rw [decimal]
    cases hd : Nat.toDigits 10 n with
    | nil => exact absurd hd Nat.toDigits_ne_nil
    | cons c rest =>
      rw [hd] at value digits
      rw [canonicalInt, if_neg (ne_minus_of_isDigit (digits c List.mem_cons_self)), value]
      rfl
  | negSucc n =>
    rw [decimal, canonicalInt, if_pos rfl, canonicalNat_toDigits]
    rfl

theorem parseWorkchain_decimal (w : Int) : parseWorkchain (decimal w) = some w := by
  rw [parseWorkchain, canonicalInt_decimal]

theorem ne_colon_of_mem_decimal {w : Int} : ∀ c ∈ decimal w, c ≠ ':' := by
  have digits {n : Nat} : ∀ c ∈ Nat.toDigits 10 n, c ≠ ':' := by
    rintro c hc rfl
    exact absurd (isDigit_of_mem_decimalNat _ hc) (by decide)
  cases w with
  | ofNat n => exact digits
  | negSucc n => exact List.forall_mem_cons.mpr ⟨by decide, digits⟩

/-! ### Raw addresses -/

/-- Settles O58: the text has one colon, between a canonical number and the digits of the account identifier. -/
theorem rawTextRoundTrip : Obligations.RawTextRoundTrip := by
  intro r hlen legal
  have parts : splitAtColons r.text = [decimal r.workchain, hexText r.account] := by
    rw [RawAddress.text, splitAtColons_append_colon ne_colon_of_mem_decimal,
      splitAtColons_of_forall_ne ne_colon_of_mem_hexText]
  have hhex : (hexText r.account).length = 64 := by rw [hexText_length, hlen]
  simp only [parseRaw, parts, if_pos hhex, hexBytes_hexText, parseWorkchain_decimal, if_pos legal]

/-- What is parsed is an address that `PACK` accepts: 32 bytes and a legal workchain (R107). -/
theorem legal_of_parseRaw {text : List Char} {r : RawAddress} (h : parseRaw text = some r) :
    r.account.length = 32 ∧ legalWorkchain r.workchain = true := by
  unfold parseRaw at h
  split at h
  · next wcText hex hsplit =>
    split at h
    · next hlen =>
      split at h
      · next account w hacc hw =>
        split at h
        · next legal =>
          obtain rfl := Option.some.inj h
          have hbytes : hex.length = 2 * account.length := length_of_hexBytes hacc
          have h32 : account.length = 32 := by omega
          exact ⟨h32, legal⟩
        · cases h
      · cases h
    · cases h
  · cases h

/-- A raw text is longer than any friendly text can be (R110). -/
theorem RawAddress.text_length {r : RawAddress} (h : r.account.length = 32) : 64 < r.text.length := by
  rw [RawAddress.text, List.length_append, List.length_cons, hexText_length, h]
  omega

end Sys2Proof.Machine
end

section
/-! Commands that a host issues at the port (spec/48_host_software.md, spec/70_reset_and_hazards.md R145). The idea: at
a ready port a command leaves the seven elements that its body leaves, whatever stands beside them, and the port is
ready again; so a sequence of one-byte stores or loads is one store or one slice of the buffer. -/

namespace Sys2Proof.Machine

/-! ### One command -/

/-- The host may present a command: reset is released, and no response waits (70_reset_and_hazards.md R145). -/
def State.Ready (s : State) : Prop := s.resetLine = false ∧ s.response = none

/-- At a ready port, a command answers as its body ends and leaves the elements that its body leaves. -/
theorem transact_of_commandBody {i : Instr} {s t : State} {e : ErrCode} {d : Word32} (legal : i.wellFormed = true)
    (ready : s.Ready) (h : commandBody i s = .ended e d t) :
    ∃ u, transact (encode i) s = some (responseWord e d, u) ∧ u.Ready ∧ u.toArchState = t.toArchState := by
  have body := exec_of_commandBody
    ((commandBody_actsOnElements i s { s.toSurroundings with inputs := [.takeResponse] }).trans
      (congrArg (Ended.surroundedBy · _) h))
  obtain ⟨released, free⟩ := ready
  exact ⟨_, transact_of_exec (decode_encode legal) released free body rfl rfl, ⟨released, rfl⟩, rfl⟩

theorem command_of_commandBody {ε : Type} {i : Instr} {s t : State} {e : ErrCode} {d : Word32}
    (legal : i.wellFormed = true) (ready : s.Ready) (h : commandBody i s = .ended e d t) :
    ∃ u, command (ε := ε) i s = some (.ok e.code, u) ∧ u.Ready ∧ u.toArchState = t.toArchState := by
  obtain ⟨u, answers, hu⟩ := transact_of_commandBody legal ready h
  exact ⟨u, by rw [command, answers, Option.map_some, responseErr_responseWord], hu⟩

/-! ### Bytes stored and loaded one by one -/

theorem Buffer.store_nil {size : Nat} (b : Buffer size) (lo : Nat) : b.store lo [] = b :=
  Buffer.eq_of_read_eq fun a => b.read_store_of_outside lo [] a (by simp only [List.length_nil]; omega)

theorem Buffer.store_cons {size : Nat} (b : Buffer size) (lo : Nat) (v : Byte) (vs : List Byte) :
    b.store lo (v :: vs) = (b.store lo [v]).store (lo + 1) vs := by
  refine Buffer.eq_of_read_eq fun a => ?_
  rw [Buffer.read_store, Buffer.read_store, Buffer.read_store, Option.map_map]
  congr 1
  funext w
  obtain below | rfl | above := Nat.lt_trichotomy a lo
  · simp [below, Nat.lt_succ_of_lt below]
  · simp
  · obtain ⟨k, rfl⟩ := Nat.exists_eq_add_of_lt above
    simp [show ¬ lo + k + 1 < lo by omega, show lo + k + 1 - lo = k + 1 by omega, show ¬ lo + k + 1 < lo + 1 by omega,
      show lo + k + 1 - (lo + 1) = k by omega]

theorem Space.size_le (sp : Space) : sp.size ≤ 64 := by
  cases sp <;> decide

theorem State.setMem_mem (s : State) (sp : Space) (m : Buffer sp.size) : (s.setMem sp m).mem sp = m := by
  cases sp <;> rfl

theorem State.mem_congr {s t : State} (h : s.toArchState = t.toArchState) (sp : Space) : s.mem sp = t.mem sp := by
  cases sp with
  | record => exact congrArg ArchState.buf h
  | text => exact congrArg ArchState.txt h

/-- An index of a space fits the operand of a command. -/
theorem toNat_index {sp : Space} {a : Nat} (h : a < sp.size) : (BitVec.ofNat 8 a).toNat = a := by
  have := sp.size_le
  rw [BitVec.toNat_ofNat]
  omega

/-- One-byte stores of the bytes of a list leave that list in the space (30_encoding.md R49). -/
theorem issue_storesFrom {one : Byte → Byte → Instr} {sp : Space} (legal : ∀ idx val, (one idx val).wellFormed = true)
    (body : ∀ idx val, commandBody (one idx val) = storeByte sp idx val) {bs : List Byte} {lo : Nat} {s : State}
    (ready : s.Ready) (fits : lo + bs.length ≤ sp.size) :
    ∃ rs u, issue (storesFrom one lo bs) s = some (rs, u) ∧ u.Ready ∧ u.mem sp = (s.mem sp).store lo bs := by
  induction bs generalizing lo s with
  | nil => exact ⟨[], s, rfl, ready, (Buffer.store_nil _ lo).symm⟩
  | cons v vs ih =>
    rw [List.length_cons] at fits
    have fits' : lo + 1 + vs.length ≤ sp.size := by omega
    have idx : (BitVec.ofNat 8 lo).toNat = lo := toNat_index (sp := sp) (by omega)
    have stores := storeByte_of_inside sp (BitVec.ofNat 8 lo) v s (by omega)
    obtain ⟨t, first, ht, elements⟩ :=
      transact_of_commandBody (legal (BitVec.ofNat 8 lo) v) ready ((congrFun (body _ v) s).trans stores)
    obtain ⟨rs, u, others, hu, hmem⟩ := ih ht fits'
    refine ⟨_, u, by rw [storesFrom, issue_cons, first, Option.bind_some, others, Option.map_some], hu, ?_⟩
    rw [hmem, State.mem_congr elements, State.setMem_mem, idx, ← Buffer.store_cons]

/-- A slice that is not empty is a byte and a slice. -/
theorem Buffer.slice_cons {size : Nat} {b : Buffer size} {lo : Nat} {v : Byte} {vs : List Byte}
    (h : b.slice lo (vs.length + 1) = some (v :: vs)) : b.read lo = some v ∧ b.slice (lo + 1) vs.length = some vs := by
  obtain ⟨-, hread⟩ := (b.slice_eq_some_iff _ _ _).mp h
  refine ⟨hread 0 (Nat.succ_pos _), (b.slice_eq_some_iff _ _ _).mpr ⟨rfl, fun k hk => ?_⟩⟩
  rw [Nat.add_assoc, Nat.add_comm 1 k, hread (k + 1) (Nat.succ_lt_succ hk), List.getElem?_cons_succ]

/-- One-byte loads answer the bytes of the slice and leave the elements as they are. -/
theorem issue_loadsFrom {one : Byte → Instr} {sp : Space} (legal : ∀ idx, (one idx).wellFormed = true)
    (body : ∀ idx, commandBody (one idx) = loadByte sp idx) {bs : List Byte} {lo : Nat} {s : State} (ready : s.Ready)
    (h : (s.mem sp).slice lo bs.length = some bs) (fits : lo + bs.length ≤ sp.size) :
    ∃ u, issue (loadsFrom one lo bs.length) s = some (bs.map fun v => responseWord .ok (v.setWidth 32), u) ∧
      u.Ready ∧ u.toArchState = s.toArchState := by
  induction bs generalizing lo s with
  | nil => exact ⟨s, rfl, ready, rfl⟩
  | cons v vs ih =>
    rw [List.length_cons] at fits
    have fits' : lo + 1 + vs.length ≤ sp.size := by omega
    have idx : (BitVec.ofNat 8 lo).toNat = lo := toNat_index (sp := sp) (by omega)
    obtain ⟨byte, rest⟩ := Buffer.slice_cons h
    have loads := loadByte_of_read sp (BitVec.ofNat 8 lo) v s (by omega) (idx.symm ▸ byte)
    obtain ⟨t, first, ht, elements⟩ :=
      transact_of_commandBody (legal (BitVec.ofNat 8 lo)) ready ((congrFun (body _) s).trans loads)
    rw [← State.mem_congr elements] at rest
    obtain ⟨u, others, hu, elements'⟩ := ih ht rest fits'
    refine ⟨u, ?_, hu, elements'.trans elements⟩
    rw [List.length_cons, loadsFrom, List.range'_succ, List.map_cons, issue_cons, first, Option.bind_some, ← loadsFrom,
      others, Option.map_some, List.map_cons]

end Sys2Proof.Machine
end

section
/-! The parts of the host procedures (spec/48_host_software.md R109, R113 to R115). The idea: `ENCODE` leaves the text
of a record that depends on its operands and the account identifier alone, and `DECODE` of a text reads that record
back; so the texts that a procedure returns are told by records, and the state of the block does not enter. -/

namespace Sys2Proof.Machine

/-! ### Texts read out -/

/-- The characters whose codes the bytes are. -/
def charsOf (bytes : List Byte) : List Char := bytes.map fun c => Char.ofNat c.toNat

/-- The codes of characters, cut to bytes (48_host_software.md R112). -/
def codesOf (text : List Char) : List Byte := text.map fun c => BitVec.ofNat 8 c.toNat

theorem toNat_charOfByte (c : Byte) : (Char.ofNat c.toNat).toNat = c.toNat := by
  have valid : c.toNat.isValidChar := .inl (by have := c.isLt; omega)
  rw [Char.toNat_ofNat, if_pos valid]

theorem codesOf_charsOf (bytes : List Byte) : codesOf (charsOf bytes) = bytes := by
  have code (c : Byte) : BitVec.ofNat 8 (Char.ofNat c.toNat).toNat = c := by
    rw [toNat_charOfByte, BitVec.ofNat_toNat, BitVec.setWidth_eq]
  simp only [codesOf, charsOf, List.map_map, Function.comp_def, code, List.map_id']

theorem charsOf_le (bytes : List Byte) : ∀ c ∈ charsOf bytes, c.toNat ≤ 255 := by
  intro c hc
  obtain ⟨v, -, rfl⟩ := List.mem_map.mp hc
  rw [toNat_charOfByte]
  exact Nat.le_of_lt_succ v.isLt

/-- `readText` returns the first 48 characters of `TXT` and leaves the elements as they are (R109 step 4). -/
theorem readText_of_slice {ε : Type} {s : State} {text : List Byte} (ready : s.Ready)
    (h : s.txt.slice 0 48 = some text) :
    ∃ u, readText (ε := ε) s = some (.ok (charsOf text), u) ∧ u.Ready ∧ u.toArchState = s.toArchState := by
  have hlen := Buffer.slice_length h
  obtain ⟨u, loads, hu⟩ := issue_loadsFrom (one := .rdt) (sp := .text) (fun _ => rfl) (fun _ => rfl) ready
    (hlen.symm ▸ h) (by rw [hlen]; decide)
  rw [hlen] at loads
  refine ⟨u, ?_, hu⟩
  have char (v : Byte) : (v.setWidth 32).toNat = v.toNat := BitVec.toNat_setWidth_of_le (by decide)
  simp only [readText, loads, Option.map_some, responseChars, List.map_map, Function.comp_def,
    responseData_responseWord, char, charsOf]

/-! ### ENCODE and the text it leaves -/

/-- `TXT` holds a text that `DECODE` may read. -/
def State.HoldsText (s : State) (text : List Byte) : Prop := s.tlen = 48#7 ∧ s.txt.slice 0 48 = some text

theorem State.HoldsText.congr {s t : State} {text : List Byte} (h : t.HoldsText text)
    (elements : s.toArchState = t.toArchState) : s.HoldsText text := by
  obtain ⟨hlen, htext⟩ := h
  exact ⟨(congrArg ArchState.tlen elements).trans hlen,
    (congrArg (Buffer.slice · 0 48) (congrArg ArchState.txt elements)).trans htext⟩

/-- The friendly text of a record (44_codec.md R90). -/
def Record.friendlyText (r : Record) : List Char := charsOf (b64Encode r.bytes)

/-- The body of `ENCODE` leaves the record of its operands and its text. -/
theorem commandBody_encode_of_legalWc {wc : Word32} {s : State} {account : List Byte} (legal : LegalWc wc)
    (ha : s.buf.slice 2 32 = some account) (flg : Byte) :
    commandBody (.encode flg wc) s = .done (s.encoded (packRecord flg wc account)) 0#32 :=
  (congrArg (·.andThen b64encBody) (packBody_of_legalWc legal ha flg)).trans
    (b64encBody_of_bytes (Buffer.slice_around (r := packRecord flg wc account) ha))

/-- A host that issues `ENCODE` and reads the text out gets the friendly text; the text and the account identifier stay
in the block. -/
theorem encode_then_readText {ε : Type} {s : State} {flg : Byte} {wc : Word32} {account : List Byte} (ready : s.Ready)
    (flags : flagsLegal flg = true) (legal : LegalWc wc) (ha : s.buf.slice 2 32 = some account) :
    ∃ u v, command (ε := ε) (.encode flg wc) s = some (.ok ErrCode.ok.code, u) ∧
      readText (ε := ε) u = some (.ok (packRecord flg wc account).friendlyText, v) ∧ v.Ready ∧
      v.HoldsText (b64Encode (packRecord flg wc account).bytes) ∧ v.buf.slice 2 32 = some account := by
  obtain ⟨u, encodes, hu, elements⟩ :=
    command_of_commandBody (ε := ε) (i := .encode flg wc) flags ready (commandBody_encode_of_legalWc legal ha flg)
  obtain ⟨-, text, -⟩ := State.encoded_buffers (r := packRecord flg wc account) ha
  have holds : u.HoldsText (b64Encode (packRecord flg wc account).bytes) := State.HoldsText.congr ⟨rfl, text⟩ elements
  have kept : (s.buf.around (packRecord flg wc account)).slice 2 32 = some account :=
    (Buffer.slice_congr fun k hk => s.buf.read_around _ (by omega) (by omega)).trans ha
  obtain ⟨v, reads, hv, elements'⟩ := readText_of_slice (ε := ε) hu holds.2
  have hbuf : v.buf = s.buf.around (packRecord flg wc account) := congrArg ArchState.buf (elements'.trans elements)
  exact ⟨u, v, encodes, reads, hv, holds.congr elements', hbuf ▸ kept⟩

/-! ### encodeFriendly (48_host_software.md R109) -/

theorem flagsOperand_reads (bounceable testnet : Bool) :
    flagsLegal (flagsOperand bounceable testnet) = true ∧ (flagsOperand bounceable testnet).getLsbD 0 = bounceable ∧
      (flagsOperand bounceable testnet).getLsbD 1 = testnet := by
  revert bounceable testnet
  decide

/-- A legal workchain is the number that its 32 bits spell. -/
theorem toInt_ofInt_of_legalWorkchain {w : Int} (h : legalWorkchain w = true) : (BitVec.ofInt 32 w).toInt = w := by
  simp only [legalWorkchain, Bool.or_eq_true, beq_iff_eq, Bool.and_eq_true, decide_eq_true_iff] at h
  exact BitVec.toInt_ofInt_eq_self (by decide) (by omega) (by omega)

theorem legalWc_ofInt {w : Int} (h : legalWorkchain w = true) : LegalWc (BitVec.ofInt 32 w) :=
  (legalWorkchain_iff _).mp ((congrArg legalWorkchain (toInt_ofInt_of_legalWorkchain h)).trans h)

/-- The record of a raw address (R109). -/
def RawAddress.record (r : RawAddress) (bounceable testnet : Bool) : Record :=
  packRecord (flagsOperand bounceable testnet) (BitVec.ofInt 32 r.workchain) r.account

theorem encodeFriendly_of_malformed {raw : List Char} (h : parseRaw raw = none) (bounceable testnet : Bool)
    (s : State) : encodeFriendly raw bounceable testnet s = some (.error .malformedRaw, s) := by
  rw [encodeFriendly, h]

/-- `encodeFriendly` of a text that is a raw address returns its friendly text and leaves it in `TXT`. -/
theorem encodeFriendly_of_parseRaw {raw : List Char} {r : RawAddress} (h : parseRaw raw = some r)
    (bounceable testnet : Bool) {s : State} (ready : s.Ready) :
    ∃ u, encodeFriendly raw bounceable testnet s = some (.ok (r.record bounceable testnet).friendlyText, u) ∧ u.Ready ∧
      u.HoldsText (b64Encode (r.record bounceable testnet).bytes) := by
  obtain ⟨hlen, hwc⟩ := legal_of_parseRaw h
  obtain ⟨flags, -, -⟩ := flagsOperand_reads bounceable testnet
  have fits : 2 + r.account.length ≤ Space.record.size := by rw [hlen]; decide
  obtain ⟨_, s1, loads, hs1, hmem⟩ := issue_storesFrom (one := .wrb) (sp := .record) (fun _ _ => rfl)
    (fun _ _ => rfl) ready fits
  have ha : s1.buf.slice 2 32 = some r.account := by
    have stored := s.buf.slice_store fits
    rw [hlen] at stored
    exact (congrArg (Buffer.slice · 2 32) hmem).trans stored
  obtain ⟨s2, u, encodes, reads, hu, holds, -⟩ :=
    encode_then_readText (ε := FormatError) hs1 flags (legalWc_ofInt hwc) ha
  refine ⟨u, ?_, hu, holds⟩
  simp only [encodeFriendly, h, loadAndEncode, pseudoLdacc, loads, encodes, HostRun.andThen_ok, if_true, reads]
  rfl

/-! ### DECODE and the result built (48_host_software.md R113 to R115) -/

/-- The two re-encodings return the friendly texts of the two labels. -/
theorem buildResult_of_slice {s : State} {status : Byte} {wc : Word32} {account : List Byte} (ready : s.Ready)
    (legal : LegalWc wc) (ha : s.buf.slice 2 32 = some account) (wasRaw : Bool) :
    ∃ u, buildResult wasRaw status wc account s =
      some (.ok ⟨label wc.toInt wasRaw (statusBnc status), wc.toInt, statusTst status,
        RawAddress.text ⟨wc.toInt, account⟩,
        (packRecord (flagsOperand true (statusTst status)) wc account).friendlyText,
        (packRecord (flagsOperand false (statusTst status)) wc account).friendlyText⟩, u) := by
  obtain ⟨flags, -, -⟩ := flagsOperand_reads true (statusTst status)
  obtain ⟨flags', -, -⟩ := flagsOperand_reads false (statusTst status)
  obtain ⟨s1, s2, encodes, reads, hs2, -, ha2⟩ := encode_then_readText (ε := ParseFailure) ready flags legal ha
  obtain ⟨s3, s4, encodes', reads', -, -, -⟩ := encode_then_readText (ε := ParseFailure) hs2 flags' legal ha2
  exact ⟨s4, by simp only [buildResult, encodes, reads, encodes', reads', HostRun.andThen_ok]⟩

/-- What `parseAddress` returns for a valid record (R114, R115). -/
def Record.parsed (r : Record) (wasRaw : Bool) : ParsedAddress where
  inputType := label (readWorkchain r.wcByte).toInt wasRaw (tagIsBounceable r.tag)
  workchain := (readWorkchain r.wcByte).toInt
  testnet := tagIsTestnet r.tag
  raw := RawAddress.text ⟨(readWorkchain r.wcByte).toInt, r.account⟩
  bounceable := (packRecord (flagsOperand true (tagIsTestnet r.tag)) (readWorkchain r.wcByte) r.account).friendlyText
  unbounceable := (packRecord (flagsOperand false (tagIsTestnet r.tag)) (readWorkchain r.wcByte) r.account).friendlyText

/-- The record of its 36 bytes. -/
theorem Buffer.record_of_slice {b : Buffer 36} {r : Record} (h : b.slice 0 36 = some r.bytes)
    (hacc : r.account.length = 32) : b.record = some r := by
  obtain ⟨_, _, account, _, _, -, -, found, -, -, hr⟩ := b.record_found
  have bytes : _ = r.bytes := Option.some.inj ((Buffer.slice_of_record hr).symm.trans h)
  rw [hr, Record.eq_of_bytes_eq ((Buffer.slice_length found).trans hacc.symm) bytes]

/-- The account identifier of the record in `BUF`. -/
theorem Buffer.slice_account_of_record {b : Buffer 36} {r : Record} (h : b.record = some r) :
    b.slice 2 32 = some r.account := by
  obtain ⟨_, _, _, _, _, -, -, found, -, -, hr⟩ := b.record_found
  obtain rfl := Option.some.inj (hr.symm.trans h)
  exact found

theorem Record.bytes_length {r : Record} (hacc : r.account.length = 32) : r.bytes.length = 36 := by
  rw [Record.bytes, List.length_append, Record.covered_length hacc]
  rfl

/-- All the bytes of a record stored, `BUF` holds the record. -/
theorem Buffer.record_store_bytes (b : Buffer 36) {r : Record} (hacc : r.account.length = 32) :
    (b.store 0 r.bytes).record = some r :=
  Buffer.record_of_slice (b.slice_store_zero (Record.bytes_length hacc) (Nat.le_refl 36)) hacc

/-- The body of `DECODE` of a text with values ends as `CHECK` of the record of their bytes does (44_codec.md R91). -/
theorem commandBody_decode_of_values {s : State} {text : List Byte} {vs : List Sextet} {r : Record}
    (h : s.HoldsText text) (hvs : textValues text = some vs) (hr : r.bytes = groupBytes vs)
    (hacc : r.account.length = 32) :
    commandBody .decode s = .ended (if r.sumMatches then .ok else .checksum) 0#32
      ((s.setBuf (s.buf.store 0 r.bytes)).checked r) := by
  obtain ⟨hlen, htext⟩ := h
  have decodes := decodeTextBody_of_done (b64decBody_of_values (by rw [hlen]; rfl) htext hvs)
  rw [← hr] at decodes
  exact (congrArg (·.andThen checkBody) decodes).trans (checkBody_of_record (s.buf.record_store_bytes hacc))

/-- The registers and the account identifier read out after a `DECODE` that succeeded (R114). -/
theorem issue_readout {s : State} {account : List Byte} (ready : s.Ready) (ha : s.buf.slice 2 32 = some account) :
    ∃ u, issue (.rdr 0 :: .rdr 4 :: loadsFrom .rdb 2 Config.accLen) s =
        some (responseWord .ok (s.status.setWidth 32) :: responseWord .ok s.wc ::
          account.map fun v => responseWord .ok (v.setWidth 32), u) ∧
      u.Ready ∧ u.toArchState = s.toArchState := by
  obtain ⟨s1, status, hs1, same1⟩ :=
    transact_of_commandBody (i := .rdr 0) (t := s) (e := .ok) (d := s.status.setWidth 32) rfl ready rfl
  obtain ⟨s2, wc, hs2, same2⟩ :=
    transact_of_commandBody (i := .rdr 4) (t := s1) (e := .ok) (d := s1.wc) rfl hs1 rfl
  have hlen := Buffer.slice_length ha
  have same : s2.toArchState = s.toArchState := same2.trans same1
  obtain ⟨u, loads, hu, same3⟩ := issue_loadsFrom (one := .rdb) (sp := .record) (bs := account) (lo := 2)
    (fun _ => rfl) (fun _ => rfl) hs2 (by rw [State.mem_congr same, hlen]; exact ha) (by rw [hlen]; decide)
  rw [hlen] at loads
  refine ⟨u, ?_, hu, same3.trans same⟩
  rw [issue_cons, status, Option.bind_some, issue_cons, wc, Option.bind_some, loads, congrArg ArchState.wc same1]
  rfl

section
variable {s : State} {text : List Byte} {vs : List Sextet} {r : Record}

/-- A text whose record has the wrong checksum is refused as such (R113). -/
theorem decodeAndBuild_of_mismatch (ready : s.Ready) (h : s.HoldsText text) (hvs : textValues text = some vs)
    (hr : r.bytes = groupBytes vs) (hacc : r.account.length = 32) (mismatch : r.sumMatches = false) (wasRaw : Bool) :
    ∃ u, decodeAndBuild wasRaw s = some (.error .checksumMismatch, u) := by
  have body := commandBody_decode_of_values h hvs hr hacc
  rw [mismatch, if_neg Bool.false_ne_true] at body
  obtain ⟨u, decodes, -, -⟩ := command_of_commandBody (ε := ParseFailure) (i := .decode) rfl ready body
  exact ⟨u, by rw [decodeAndBuild, decodes]; rfl⟩

/-- A text whose record is valid gives the result of that record (R113 to R115). -/
theorem decodeAndBuild_of_match (ready : s.Ready) (h : s.HoldsText text) (hvs : textValues text = some vs)
    (hr : r.bytes = groupBytes vs) (hacc : r.account.length = 32) (valid : r.sumMatches = true) (wasRaw : Bool) :
    ∃ u, decodeAndBuild wasRaw s = some (.ok (r.parsed wasRaw), u) := by
  have body := commandBody_decode_of_values h hvs hr hacc
  rw [valid, if_pos rfl, State.checked_of_match _ valid] at body
  obtain ⟨t, decodes, ht, elements⟩ := command_of_commandBody (ε := ParseFailure) (i := .decode) rfl ready body
  have ha : t.buf.slice 2 32 = some r.account := by
    have hbuf : t.buf = s.buf.store 0 r.bytes := congrArg ArchState.buf elements
    rw [hbuf]
    exact Buffer.slice_account_of_record (s.buf.record_store_bytes hacc)
  have hstatus : t.status = validStatus r.tag := congrArg ArchState.status elements
  have hwc : t.wc = readWorkchain r.wcByte := congrArg ArchState.wc elements
  obtain ⟨u, reads, hu, same⟩ := issue_readout ht ha
  obtain ⟨-, -, bnc, tst⟩ := validStatus_bits r.tag
  obtain ⟨v, builds⟩ := buildResult_of_slice (status := validStatus r.tag) hu
    ((legalWc_iff _).mpr (readWorkchain_range r.wcByte))
    ((congrArg (Buffer.slice · 2 32) (congrArg ArchState.buf same)).trans ha) wasRaw
  have byte (c : Byte) : (c.setWidth 32).setWidth 8 = c := by simp
  refine ⟨v, ?_⟩
  rw [decodeAndBuild, decodes, HostRun.andThen_ok, if_neg (by decide), if_neg (by decide)]
  simp only [reads, responseData_responseWord, List.map_map, Function.comp_def, byte, List.map_id', hstatus, hwc,
    builds, bnc, tst, Record.parsed]
end

end Sys2Proof.Machine
end

section
/-! `parseAddress` (spec/48_host_software.md R110 to R117). The idea: both paths load a text and end in one `DECODE`,
the raw path of the text that `encodeFriendly` left, the friendly path of its input; the record of that text decides. -/

namespace Sys2Proof.Machine

/-! ### Texts that `DECODE` refuses (48_host_software.md R112, R113) -/

/-- A text of the wrong length, or with an invalid character, is malformed input. -/
theorem decodeAndBuild_of_b64dec_failed {s : State} {e : ErrCode} (ready : s.Ready) (he : e = .length ∨ e = .alphabet)
    (h : b64decBody s = .failed e s) (wasRaw : Bool) :
    ∃ u, decodeAndBuild wasRaw s = some (.error .malformedInput, u) := by
  have failed : e ≠ .ok := by rintro rfl; simp at he
  have body : commandBody .decode s = .failed e s.clearResult :=
    (congrArg (·.andThen checkBody) (decodeTextBody_of_failed failed h)).trans (Ended.andThen_failed failed _ _ _)
  obtain ⟨u, decodes, -, -⟩ := command_of_commandBody (ε := ParseFailure) (i := .decode) rfl ready body
  have code : e.code = ErrCode.length.code ∨ e.code = ErrCode.alphabet.code :=
    he.imp (congrArg ErrCode.code) (congrArg ErrCode.code)
  exact ⟨u, by rw [decodeAndBuild, decodes, HostRun.andThen_ok, if_pos code]⟩

/-! ### The two paths (48_host_software.md R110 to R112) -/

theorem parseAddress_of_long {input : List Char} (h : 64 < input.length) (flag : Bool) (s : State) :
    parseAddress input flag s = rawPath input flag s := if_pos h

theorem parseAddress_of_short {input : List Char} (h : input.length ≤ 64) (flag : Bool) (s : State) :
    parseAddress input flag s = friendlyPath input s := if_neg (Nat.not_lt.mpr h)

theorem rawPath_of_encodeFriendly {input : List Char} {flag : Bool} {s t : State} {text : List Char}
    (h : encodeFriendly input true flag s = some (.ok text, t)) : rawPath input flag s = decodeAndBuild true t := by
  rw [rawPath, h, HostRun.reportAs_ok, HostRun.andThen_ok]

theorem friendlyPath_of_wide {input : List Char} {c : Char} (hc : c ∈ input) (wide : 255 < c.toNat) (s : State) :
    friendlyPath input s = some (.error .malformedInput, s) := by
  have some_wide : ¬ input.all (fun c => c.toNat ≤ 255) = true := by
    simp only [List.all_eq_true, decide_eq_true_eq, not_forall]
    exact ⟨c, hc, Nat.not_le.mpr wide⟩
  rw [friendlyPath, if_neg some_wide]

/-- A text of bytes is loaded with its length, and the friendly path goes on with `DECODE`. -/
theorem friendlyPath_of_bytes {input : List Char} (short : input.length ≤ 64) (narrow : ∀ c ∈ input, c.toNat ≤ 255)
    {s : State} (ready : s.Ready) :
    ∃ u, friendlyPath input s = decodeAndBuild false u ∧ u.Ready ∧ u.tlen.toNat = input.length ∧
      u.txt.slice 0 input.length = some (codesOf input) := by
  have hlen : (codesOf input).length = input.length := List.length_map _
  obtain ⟨rs, t, stores, ht, hmem⟩ := issue_storesFrom (one := .wrt) (sp := .text) (bs := codesOf input) (lo := 0)
    (fun _ _ => rfl) (fun _ _ => rfl) ready (by rw [hlen, Nat.zero_add]; exact short)
  have operand : (BitVec.ofNat 8 (codesOf input).length).toNat = input.length := by
    rw [hlen, BitVec.toNat_ofNat]
    omega
  obtain ⟨u, sets, hu, elements⟩ := transact_of_commandBody (i := .setlen (BitVec.ofNat 8 (codesOf input).length)) rfl
    ht (setlenBody_of_le (operand.symm ▸ short) t)
  have htlen : u.tlen = (BitVec.ofNat 8 (codesOf input).length).setWidth 7 := congrArg ArchState.tlen elements
  have htxt : u.txt = s.txt.store 0 (codesOf input) := (congrArg ArchState.txt elements).trans hmem
  refine ⟨u, ?_, hu, ?_, ?_⟩
  · have all : input.all (fun c => c.toNat ≤ 255) = true := by simpa using narrow
    rw [friendlyPath, if_pos all, ← codesOf, pseudoLdtxt, issue_append, stores, Option.bind_some, issue_cons, sets]
    rfl
  · rw [htlen, BitVec.toNat_setWidth, operand]
    omega
  · rw [htxt]
    exact s.txt.slice_store_zero hlen short

/-- A text of 48 bytes is one that `DECODE` may read. -/
theorem holdsText_of_length {u : State} {text : List Byte} {n : Nat} (h48 : n = 48) (hlen : u.tlen.toNat = n)
    (h : u.txt.slice 0 n = some text) : u.HoldsText text := by
  subst h48
  exact ⟨BitVec.eq_of_toNat_eq hlen, h⟩

/-! ### The round trip (48_host_software.md R117) -/

theorem Record.friendlyText_length {r : Record} (hacc : r.account.length = 32) : r.friendlyText.length = 48 := by
  rw [Record.friendlyText, charsOf, List.length_map, b64Encode_length _ (Record.bytes_length hacc)]

/-- What `parseAddress` returns for a raw address whose text, raw or friendly, has these flags (R114, R115). -/
def RawAddress.parsed (r : RawAddress) (bounceable testnet wasRaw : Bool) : ParsedAddress where
  inputType := label r.workchain wasRaw bounceable
  workchain := r.workchain
  testnet := testnet
  raw := r.text
  bounceable := (r.record true testnet).friendlyText
  unbounceable := (r.record false testnet).friendlyText

/-- The record of a raw address gives back the address and the flags. -/
theorem RawAddress.parsed_record {r : RawAddress} (h : legalWorkchain r.workchain = true)
    (bounceable testnet wasRaw : Bool) :
    (r.record bounceable testnet).parsed wasRaw = r.parsed bounceable testnet wasRaw := by
  obtain ⟨-, bit0, bit1⟩ := flagsOperand_reads bounceable testnet
  obtain ⟨bnc, tst⟩ := tagFor_reads (flagsOperand bounceable testnet)
  have hbnc : tagIsBounceable (r.record bounceable testnet).tag = bounceable := bnc.trans bit0
  have htst : tagIsTestnet (r.record bounceable testnet).tag = testnet := tst.trans bit1
  have hwc : readWorkchain (r.record bounceable testnet).wcByte = BitVec.ofInt 32 r.workchain :=
    workchainByteRoundTrip.1 _ (legalWc_ofInt h)
  rw [Record.parsed, hbnc, htst, hwc, toInt_ofInt_of_legalWorkchain h]
  rfl

/-- `DECODE` of the text that `encodeFriendly` left gives the address and the flags back. -/
theorem decodeAndBuild_of_raw {s : State} {r : RawAddress} {bounceable testnet : Bool} (ready : s.Ready)
    (hacc : r.account.length = 32) (legal : legalWorkchain r.workchain = true)
    (holds : s.HoldsText (b64Encode (r.record bounceable testnet).bytes)) (wasRaw : Bool) :
    ∃ u, decodeAndBuild wasRaw s = some (.ok (r.parsed bounceable testnet wasRaw), u) := by
  have hvs : textValues (b64Encode (r.record bounceable testnet).bytes) = some _ := textValues_map_b64chr _
  have hbytes : (r.record bounceable testnet).bytes.length = 3 * 12 := Record.bytes_length hacc
  rw [← RawAddress.parsed_record legal]
  exact decodeAndBuild_of_match ready holds hvs (groupBytes_sextets 12 _ hbytes).symm hacc
    (packRecord_sumMatches _ _ _) wasRaw

/-- The raw path of a text that is a raw address returns that address, with the caller's testnet flag (R111). -/
theorem rawPath_of_parseRaw {text : List Char} {r : RawAddress} (h : parseRaw text = some r) (flag : Bool) {s : State}
    (ready : s.Ready) : ∃ u, rawPath text flag s = some (.ok (r.parsed true flag true), u) := by
  obtain ⟨hacc, legal⟩ := legal_of_parseRaw h
  obtain ⟨t, encodes, ht, holds⟩ := encodeFriendly_of_parseRaw h true flag ready
  rw [rawPath_of_encodeFriendly encodes]
  exact decodeAndBuild_of_raw ht hacc legal holds true

/-- The friendly path of a friendly text returns the address and the flags that it was made from (R112). -/
theorem friendlyPath_of_friendlyText {r : RawAddress} (hacc : r.account.length = 32)
    (legal : legalWorkchain r.workchain = true) (bounceable testnet : Bool) {s : State} (ready : s.Ready) :
    ∃ u, friendlyPath (r.record bounceable testnet).friendlyText s =
      some (.ok (r.parsed bounceable testnet false), u) := by
  have hlen : (r.record bounceable testnet).friendlyText.length = 48 := Record.friendlyText_length hacc
  obtain ⟨t, path, ht, htlen, htxt⟩ := friendlyPath_of_bytes (by omega) (charsOf_le _) ready
    (input := (r.record bounceable testnet).friendlyText)
  have holds := holdsText_of_length hlen htlen htxt
  rw [Record.friendlyText, codesOf_charsOf] at holds
  rw [path]
  exact decodeAndBuild_of_raw ht hacc legal holds false

/-- Settles O59: each path ends in a `DECODE` of the text of the address's record. -/
theorem parseGivesBackWhatEncodeFriendlyTook : Obligations.ParseGivesBackWhatEncodeFriendlyTook := by
  constructor
  · intro r bounceable testnet flag s hacc legal _ released free
    obtain ⟨u, encodes, hu, -⟩ :=
      encodeFriendly_of_parseRaw (rawTextRoundTrip r hacc legal) bounceable testnet ⟨released, free⟩
    obtain ⟨v, path⟩ := friendlyPath_of_friendlyText hacc legal bounceable testnet hu
    have short : (r.record bounceable testnet).friendlyText.length ≤ 64 := by
      rw [Record.friendlyText_length hacc]
      decide
    refine ⟨_, u, r.parsed bounceable testnet false, v, encodes, (parseAddress_of_short short flag u).trans path,
      rfl, rfl, rfl, rfl, ?_⟩
    cases bounceable <;> rfl
  · intro r flag s hacc legal _ released free
    have parses := rawTextRoundTrip r hacc legal
    obtain ⟨u, encodes, -, -⟩ := encodeFriendly_of_parseRaw parses true flag ⟨released, free⟩
    obtain ⟨u', encodes', -, -⟩ := encodeFriendly_of_parseRaw parses false flag ⟨released, free⟩
    obtain ⟨v, path⟩ := rawPath_of_parseRaw parses flag ⟨released, free⟩
    exact ⟨r.parsed true flag true, v, u, u', (parseAddress_of_long (RawAddress.text_length hacc) flag s).trans path,
      rfl, rfl, rfl, rfl, encodes, encodes'⟩

/-! ### The failures (48_host_software.md R111 to R113, R116) -/

/-- A text fails for its characters when one of them is no base64 character. -/
theorem textValues_codesOf_eq_none_iff {text : List Char} :
    textValues (codesOf text) = none ↔ ∃ c ∈ text, b64val (BitVec.ofNat 8 c.toNat) = none := by
  rw [textValues_eq_none_iff]
  constructor
  · rintro ⟨i, v, hv, invalid⟩
    obtain ⟨c, hc, rfl⟩ := List.mem_map.mp (List.mem_of_getElem? hv)
    exact ⟨c, hc, invalid⟩
  · rintro ⟨c, hc, invalid⟩
    obtain ⟨i, hi⟩ := List.mem_iff_getElem?.mp (List.mem_map_of_mem (f := fun c : Char => BitVec.ofNat 8 c.toNat) hc)
    exact ⟨i, _, hi, invalid⟩

/-- A malformed friendly text has a character that fits no byte, or `DECODE` cannot read it. -/
theorem MalformedFriendly.cases {text : List Char} (h : MalformedFriendly text) :
    (∃ c ∈ text, 255 < c.toNat) ∨
      (∀ c ∈ text, c.toNat ≤ 255) ∧ (text.length ≠ 48 ∨ text.length = 48 ∧ textValues (codesOf text) = none) := by
  by_cases narrow : ∀ c ∈ text, c.toNat ≤ 255
  · refine .inr ⟨narrow, ?_⟩
    obtain hlen | ⟨c, hc, wide | invalid⟩ := h
    · exact .inl hlen
    · exact absurd (narrow c hc) (Nat.not_le.mpr wide)
    · exact (ne_or_eq text.length 48).imp_right fun hlen => ⟨hlen, textValues_codesOf_eq_none_iff.mpr ⟨c, hc, invalid⟩⟩
  · simp only [not_forall, Nat.not_le] at narrow
    obtain ⟨c, hc, wide⟩ := narrow
    exact .inl ⟨c, hc, wide⟩

/-- A text that is not malformed has 48 characters, all bytes and all with values. -/
theorem values_of_not_malformedFriendly {text : List Char} (h : ¬ MalformedFriendly text) :
    text.length = 48 ∧ (∀ c ∈ text, c.toNat ≤ 255) ∧ ∃ vs, textValues (codesOf text) = some vs := by
  simp only [MalformedFriendly, not_or, not_not, not_exists, not_and, Nat.not_lt] at h
  obtain ⟨hlen, chars⟩ := h
  refine ⟨hlen, fun c hc => (chars c hc).1, Option.ne_none_iff_exists'.mp fun none => ?_⟩
  obtain ⟨c, hc, invalid⟩ := textValues_codesOf_eq_none_iff.mp none
  exact (chars c hc).2 invalid

/-- The friendly path of a malformed text is malformed input (R112, R113). -/
theorem friendlyPath_of_malformed {text : List Char} (short : text.length ≤ 64) (h : MalformedFriendly text) {s : State}
    (ready : s.Ready) : ∃ u, friendlyPath text s = some (.error .malformedInput, u) := by
  obtain ⟨c, hc, wide⟩ | ⟨narrow, unreadable⟩ := h.cases
  · exact ⟨s, friendlyPath_of_wide hc wide s⟩
  · obtain ⟨t, path, ht, htlen, htxt⟩ := friendlyPath_of_bytes short narrow ready
    rw [path]
    obtain hlen | ⟨hlen, invalid⟩ := unreadable
    · exact decodeAndBuild_of_b64dec_failed ht (.inl rfl) (b64decBody_of_length (htlen ▸ hlen)) false
    · obtain ⟨h48, htext⟩ := holdsText_of_length hlen htlen htxt
      exact decodeAndBuild_of_b64dec_failed ht (.inr rfl) (b64decBody_of_invalid (by rw [h48]; rfl) htext invalid) false

/-- The decoding half of the grouping determines the bytes of a text (30_encoding.md R58). -/
theorem eq_groupBytes_of_groupsDecoded {text bytes : List Byte} {vs : List Sextet} (hvs : textValues text = some vs)
    (htext : text.length = 48) (hbytes : bytes.length = 36)
    (h : GroupsDecoded (fun a => text[a]?) (fun a => bytes[a]?)) : bytes = groupBytes vs := by
  obtain ⟨hcount, hvalues⟩ := textValues_eq_some hvs
  have char {a : Nat} (ha : a < 48) : ∃ c v, text[a]? = some c ∧ b64val c = some v ∧ vs[a]? = some v := by
    have hc : text[a]? = some text[a] := List.getElem?_eq_getElem (by omega)
    have hv : vs[a]? = some vs[a] := List.getElem?_eq_getElem (by omega)
    exact ⟨_, _, hc, (hvalues a _ hc).trans hv, hv⟩
  have group (g : Nat) (hg : g < 12) : bytes[3 * g]? = (groupBytes vs)[3 * g]? ∧
      bytes[3 * g + 1]? = (groupBytes vs)[3 * g + 1]? ∧ bytes[3 * g + 2]? = (groupBytes vs)[3 * g + 2]? := by
    obtain ⟨c0, v0, hc0, hb0, hv0⟩ := char (a := 4 * g) (by omega)
    obtain ⟨c1, v1, hc1, hb1, hv1⟩ := char (a := 4 * g + 1) (by omega)
    obtain ⟨c2, v2, hc2, hb2, hv2⟩ := char (a := 4 * g + 2) (by omega)
    obtain ⟨c3, v3, hc3, hb3, hv3⟩ := char (a := 4 * g + 3) (by omega)
    obtain ⟨h0, h1, h2⟩ := h g c0 c1 c2 c3 v0 v1 v2 v3 hg hc0 hc1 hc2 hc3 hb0 hb1 hb2 hb3
    obtain ⟨h0', h1', h2'⟩ := groupBytes_group vs g v0 v1 v2 v3 hv0 hv1 hv2 hv3
    exact ⟨h0.trans h0'.symm, h1.trans h1'.symm, h2.trans h2'.symm⟩
  have hlen : (groupBytes vs).length = 36 := groupBytes_length 12 vs (by omega)
  refine List.ext_getElem? fun i => ?_
  by_cases hi : i < 36
  · obtain ⟨first, second, third⟩ := group (i / 3) (by omega)
    obtain hj | hj | hj : i = 3 * (i / 3) ∨ i = 3 * (i / 3) + 1 ∨ i = 3 * (i / 3) + 2 := by omega
    exacts [hj ▸ first, hj ▸ second, hj ▸ third]
  · rw [List.getElem?_eq_none (by omega), List.getElem?_eq_none (by omega)]

/-- Any 36 bytes are those of a record. -/
theorem exists_record_of_bytes {bytes : List Byte} (h : bytes.length = 36) :
    ∃ r : Record, r.bytes = bytes ∧ r.account.length = 32 := by
  have stored := (Buffer.filled 36 fun _ => 0x00#8).slice_store_zero h (Nat.le_refl 36)
  obtain ⟨_, _, _, _, _, -, -, found, -, -, hr⟩ := ((Buffer.filled 36 fun _ => 0x00#8).store 0 bytes).record_found
  exact ⟨_, Option.some.inj ((Buffer.slice_of_record hr).symm.trans stored), Buffer.slice_length found⟩

/-- The friendly path of a text with values is decided by the checksum of its record (R113). -/
theorem friendlyPath_of_values {text : List Char} {vs : List Sextet} {r : Record} (hlen : text.length = 48)
    (narrow : ∀ c ∈ text, c.toNat ≤ 255) (hvs : textValues (codesOf text) = some vs) (hr : r.bytes = groupBytes vs)
    (hacc : r.account.length = 32) {s : State} (ready : s.Ready) :
    ∃ u, friendlyPath text s =
      some (if r.sumMatches then .ok (r.parsed false) else .error .checksumMismatch, u) := by
  obtain ⟨t, path, ht, htlen, htxt⟩ := friendlyPath_of_bytes (by omega) narrow ready
  have holds := holdsText_of_length hlen htlen htxt
  rw [path]
  cases sum : r.sumMatches with
  | true => exact decodeAndBuild_of_match ht holds hvs hr hacc sum false
  | false => exact decodeAndBuild_of_mismatch ht holds hvs hr hacc sum false

/-- Settles O60: a long text fails where it is no raw address, a short one where `DECODE` fails. -/
theorem parseAddressFailsOnlyAsTheSpecSays : Obligations.ParseAddressFailsOnlyAsTheSpecSays := by
  refine ⟨fun text flag s long malformed => ?_, fun text r flag s long parses _ released free => ?_,
    fun text flag s short malformed _ released free => ?_,
    fun text bytes flag s valid hbytes groups _ released free => ?_⟩
  · have fails := encodeFriendly_of_malformed malformed true flag s
    refine ⟨fails, ?_⟩
    rw [parseAddress_of_long long, rawPath, fails, HostRun.reportAs_error, HostRun.andThen_error]
  · obtain ⟨u, path⟩ := rawPath_of_parseRaw parses flag ⟨released, free⟩
    exact ⟨_, u, (parseAddress_of_long long flag s).trans path⟩
  · rw [parseAddress_of_short short]
    exact friendlyPath_of_malformed short malformed ⟨released, free⟩
  · obtain ⟨hlen, narrow, vs, hvs⟩ := values_of_not_malformedFriendly valid
    have hcodes : (codesOf text).length = 48 := (List.length_map _).trans hlen
    have decoded : bytes = groupBytes vs := by
      refine eq_groupBytes_of_groupsDecoded hvs hcodes hbytes ?_
      simpa only [codesOf, List.getElem?_map] using groups
    obtain ⟨r, rfl, hacc⟩ := exists_record_of_bytes hbytes
    obtain ⟨u, path⟩ := friendlyPath_of_values hlen narrow hvs decoded hacc ⟨released, free⟩
    refine ⟨_, u, (parseAddress_of_short (by omega) flag s).trans path, ?_⟩
    have matching := Record.sumMatches_iff_bytes hacc
    cases sum : r.sumMatches with
    | true => exact (if_pos (matching.mp sum)).mpr ⟨_, rfl⟩
    | false => exact (if_neg (mt matching.mpr (by simp [sum]))).mpr rfl

end Sys2Proof.Machine
end

section
/-! The response port and the reset input (spec/70_reset_and_hazards.md R135, R145). The idea: one equation per action
of the host says what its step is, and the port's own operations say what that leaves. -/

namespace Sys2Proof.Machine

/-! ### The step of each action -/

theorem step_of_command {s : State} {w : CommandWord} {rest : List HostInput} (h : s.inputs = .command w :: rest) :
    step s = acceptCommand w (s.withInputs rest) := by
  simp only [step, h]

theorem step_of_takeResponse {s : State} {rest : List HostInput} (h : s.inputs = .takeResponse :: rest) :
    step s = .next (s.withInputs rest).takeResponse := by
  simp only [step, h]

theorem step_of_assertReset {s : State} {rest : List HostInput} (h : s.inputs = .assertReset :: rest) :
    step s = .next (s.withInputs rest).assertReset := by
  simp only [step, h]

theorem step_of_releaseReset {s : State} {rest : List HostInput} (h : s.inputs = .releaseReset :: rest) :
    step s = .next (s.withInputs rest).releaseReset := by
  simp only [step, h]

/-! ### A word presented too early -/

theorem acceptCommand_of_reset {s : State} (hl : s.resetLine = true) (w : CommandWord) :
    acceptCommand w s = .refused .commandDuringReset := by
  simp [acceptCommand, hl]

theorem acceptCommand_of_response {s : State} {r : ResponseWord} (hl : s.resetLine = false)
    (hr : s.response = some r) (w : CommandWord) : acceptCommand w s = .refused .commandBeforeResponse := by
  simp [acceptCommand, hl, hr]

/-- Settles O7: the port looks at the reset input and at the waiting response before it looks at the word. -/
theorem untimelyCommandIsRefused : Obligations.UntimelyCommandIsRefused :=
  ⟨fun s w rest hi hl => (step_of_command hi).trans (acceptCommand_of_reset (s := s.withInputs rest) hl w),
    fun s w rest _ hi hl hr =>
      (step_of_command hi).trans (acceptCommand_of_response (s := s.withInputs rest) hl hr w)⟩

/-- Settles O8: the step is the taking of the response that waits. -/
theorem responseIsTakenOnce : Obligations.ResponseIsTakenOnce := by
  intro s r rest hi hr
  have waits : (s.withInputs rest).response = some r := hr
  rw [step_of_takeResponse hi, State.takeResponse_of_some waits]
  rfl

/-- Settles O9: the release finds reset asserted, and draws the contents of the two buffers. -/
theorem resetLeavesTheResetState : Obligations.ResetLeavesTheResetState := by
  intro s rest hi
  refine ⟨_, _, Config.resetBuf (s.draws + 1), Config.resetTxt (s.draws + 1), step_of_assertReset hi, rfl, rfl,
    step_of_releaseReset rfl, ?_⟩
  exact State.releaseReset_of_asserted rfl

end Sys2Proof.Machine
end

section
/-! Failures (spec/60_exceptions.md R122 to R127). The idea: one inversion, `exec_failed`, says of every command with
which codes it can fail and the whole state it then leaves. The code lists and the states after a failure are read off
it, and so is that a failed command has left its own inputs as they were, so that it fails again in the same way. -/

namespace Sys2Proof.Machine

/-! ### What each command can fail with, and what it then leaves -/

/-- How `CHECK` fails: the recomputed checksum is kept and the result registers are cleared (43_check.md R85). -/
def CheckFails (e : ErrCode) (s t : State) : Prop :=
  e = .checksum ∧ ∃ r, s.buf.record = some r ∧ t = (s.setCrc (crc16 r.covered)).clearResult

/-- How a command fails: the code, and the seven elements it leaves (60_exceptions.md R122, R124). -/
def Fails (i : Instr) (e : ErrCode) (s t : State) : Prop :=
  match i with
  | .nop | .crcclr | .crcput _ | .crcfin | .b64enc => False
  | .rdr _ | .wrb _ _ | .rdb _ | .wrt _ _ | .rdt _ | .setlen _ => e = .index ∧ t = s
  | .pack _ _ | .encode _ _ => e = .workchain ∧ t = s
  | .check => CheckFails e s t
  | .b64dec => (e = .length ∨ e = .alphabet) ∧ t = s
  | .decode => (e = .length ∨ e = .alphabet) ∧ t = s.clearResult ∨
      ∃ m, b64decBody s = .done (s.setBuf m) 0#32 ∧ CheckFails e (s.setBuf m) t

/-- The body succeeds, or fails with a code and a state that `P` allows. -/
def Ended.FailsOnlyAs (P : ErrCode → State → Prop) (b : Ended) : Prop :=
  (∃ t d, b = .done t d) ∨ ∃ e t, e ≠ .ok ∧ b = .failed e t ∧ P e t

theorem Ended.failsOnlyAs_done {P : ErrCode → State → Prop} (t : State) (d : Word32) :
    (Ended.done t d).FailsOnlyAs P := .inl ⟨t, d, rfl⟩

theorem Ended.failsOnlyAs_failed {P : ErrCode → State → Prop} {e : ErrCode} {t : State} (he : e ≠ .ok) (h : P e t) :
    (Ended.failed e t).FailsOnlyAs P := .inr ⟨e, t, he, rfl, h⟩

/-- A composite fails as its first body does, when its second body does so from the state the first one left. -/
theorem Ended.FailsOnlyAs.andThen {P : ErrCode → State → Prop} {b : Ended} {k : State → Ended}
    (hb : b.FailsOnlyAs P) (hk : ∀ t, (k t).FailsOnlyAs P) : (b.andThen k).FailsOnlyAs P := by
  obtain ⟨t, d, rfl⟩ | ⟨e, t, he, rfl, ht⟩ := hb
  · exact hk t
  · rw [Ended.andThen_failed he]
    exact Ended.failsOnlyAs_failed he ht

theorem rdrBody_failsOnlyAs (reg : Byte) (s : State) : (rdrBody reg s).FailsOnlyAs fun e t => e = .index ∧ t = s := by
  obtain ⟨_, -, h⟩ | ⟨-, h⟩ := rdrBody_cases reg s <;> rw [h]
  · exact Ended.failsOnlyAs_done _ _
  · exact Ended.failsOnlyAs_failed (by decide) ⟨rfl, rfl⟩

theorem storeByte_failsOnlyAs (sp : Space) (idx val : Byte) (s : State) :
    (storeByte sp idx val s).FailsOnlyAs fun e t => e = .index ∧ t = s := by
  obtain ⟨-, h⟩ | ⟨-, h⟩ := storeByte_cases sp idx val s <;> rw [h]
  · exact Ended.failsOnlyAs_failed (by decide) ⟨rfl, rfl⟩
  · exact Ended.failsOnlyAs_done _ _

theorem loadByte_failsOnlyAs (sp : Space) (idx : Byte) (s : State) :
    (loadByte sp idx s).FailsOnlyAs fun e t => e = .index ∧ t = s := by
  obtain ⟨-, h⟩ | ⟨-, _, -, h⟩ := loadByte_cases sp idx s <;> rw [h]
  · exact Ended.failsOnlyAs_failed (by decide) ⟨rfl, rfl⟩
  · exact Ended.failsOnlyAs_done _ _

theorem setlenBody_failsOnlyAs (len : Byte) (s : State) :
    (setlenBody len s).FailsOnlyAs fun e t => e = .index ∧ t = s := by
  obtain ⟨-, h⟩ | ⟨-, h⟩ := setlenBody_cases len s <;> rw [h]
  · exact Ended.failsOnlyAs_done _ _
  · exact Ended.failsOnlyAs_failed (by decide) ⟨rfl, rfl⟩

theorem packBody_failsOnlyAs (flg : Byte) (wc : Word32) (s : State) :
    (packBody flg wc s).FailsOnlyAs fun e t => e = .workchain ∧ t = s := by
  obtain ⟨-, h⟩ | ⟨-, _, _, -, -, h⟩ := packBody_cases flg wc s <;> rw [h]
  · exact Ended.failsOnlyAs_failed (by decide) ⟨rfl, rfl⟩
  · exact Ended.failsOnlyAs_done _ _

/-- `B64ENC` never fails (42_base64.md R75). -/
theorem b64encBody_never_fails (P : ErrCode → State → Prop) (s : State) : (b64encBody s).FailsOnlyAs P := by
  obtain ⟨_, -, h⟩ := b64encBody_eq s
  rw [h]
  exact Ended.failsOnlyAs_done _ _

theorem b64decBody_failsOnlyAs (s : State) :
    (b64decBody s).FailsOnlyAs fun e t => (e = .length ∨ e = .alphabet) ∧ t = s := by
  obtain ⟨-, h⟩ | ⟨-, _, -, -, h⟩ | ⟨-, _, _, -, -, h⟩ := b64decBody_cases s <;> rw [h]
  · exact Ended.failsOnlyAs_failed (by decide) ⟨.inl rfl, rfl⟩
  · exact Ended.failsOnlyAs_failed (by decide) ⟨.inr rfl, rfl⟩
  · exact Ended.failsOnlyAs_done _ _

theorem checkBody_failsOnlyAs (s : State) : (checkBody s).FailsOnlyAs fun e t => CheckFails e s t := by
  obtain ⟨r, hr, h⟩ := checkBody_eq s
  rw [h]
  cases sum : r.sumMatches with
  | true => exact Ended.failsOnlyAs_done _ _
  | false => exact Ended.failsOnlyAs_failed (by decide) ⟨rfl, r, hr, s.checked_of_mismatch sum⟩

/-- `DECODE` fails at its base64 stage, with the result registers cleared, or as `CHECK` does on the bytes that this
stage left (44_codec.md R91). -/
theorem decode_failsOnlyAs (s : State) :
    ((decodeTextBody s).andThen checkBody).FailsOnlyAs fun e t => Fails .decode e s t := by
  obtain ⟨-, h⟩ | ⟨-, _, -, -, h⟩ | ⟨-, _, _, -, -, h⟩ := b64decBody_cases s
  · rw [decodeTextBody_of_failed (by decide) h, Ended.andThen_failed (by decide)]
    exact Ended.failsOnlyAs_failed (by decide) (.inl ⟨.inl rfl, rfl⟩)
  · rw [decodeTextBody_of_failed (by decide) h, Ended.andThen_failed (by decide)]
    exact Ended.failsOnlyAs_failed (by decide) (.inl ⟨.inr rfl, rfl⟩)
  · rw [decodeTextBody_of_done h, Ended.andThen_done]
    exact (checkBody_failsOnlyAs _).imp_right fun ⟨e, t, he, hb, fails⟩ => ⟨e, t, he, hb, .inr ⟨_, h, fails⟩⟩

theorem commandBody_failsOnlyAs (i : Instr) (s : State) : (commandBody i s).FailsOnlyAs fun e t => Fails i e s t := by
  cases i with
  | nop | crcclr | crcput val | crcfin => exact Ended.failsOnlyAs_done _ _
  | rdr reg => exact rdrBody_failsOnlyAs reg s
  | wrb idx val | wrt idx val => exact storeByte_failsOnlyAs _ idx val s
  | rdb idx | rdt idx => exact loadByte_failsOnlyAs _ idx s
  | setlen len => exact setlenBody_failsOnlyAs len s
  | pack flg wc => exact packBody_failsOnlyAs flg wc s
  | check => exact checkBody_failsOnlyAs s
  | b64enc => exact b64encBody_never_fails _ s
  | b64dec => exact b64decBody_failsOnlyAs s
  | encode flg wc => exact (packBody_failsOnlyAs flg wc s).andThen (b64encBody_never_fails _)
  | decode => exact decode_failsOnlyAs s

/-! ### What a failing command answers and leaves -/

/-- All that a command can do that answers a failure: its rule's code with data 0, and the writes of that failure. -/
theorem exec_failed {i : Instr} {s t : State} {r : ResponseWord} (h : exec i s = .next t) (hr : t.response = some r)
    (hfail : responseErr r ≠ 0x00#8) :
    ∃ e u, Fails i e s u ∧ r = responseWord e 0#32 ∧ t = u.answer r := by
  obtain ⟨u, d, hb⟩ | ⟨e, u, -, hb, fails⟩ := commandBody_failsOnlyAs i s
  all_goals
    obtain rfl : _ = t := Host.Outcome.next.inj ((exec_of_commandBody hb).symm.trans h)
    obtain rfl : _ = r := Option.some.inj hr
  · exact absurd (responseErr_responseWord .ok d) hfail
  · exact ⟨e, u, fails, rfl, rfl⟩

/-- The codes of 60_exceptions.md R120 are distinct. -/
theorem ErrCode.code_inj {e e' : ErrCode} : e.code = e'.code ↔ e = e' := by
  cases e <;> cases e' <;> simp [ErrCode.code]

/-- The response to a failure tells its code. -/
theorem exec_failed_with {i : Instr} {s t : State} {e : ErrCode} (he : e ≠ .ok) (h : exec i s = .next t)
    (hr : t.response = some (responseWord e 0#32)) :
    ∃ u, Fails i e s u ∧ t = u.answer (responseWord e 0#32) := by
  have hfail : responseErr (responseWord e 0#32) ≠ 0x00#8 := by
    rw [responseErr_responseWord]
    exact fun hc => he (ErrCode.code_inj.mp hc)
  obtain ⟨e', u, fails, hword, rfl⟩ := exec_failed h hr hfail
  have hcode : e.code = e'.code := by rw [← responseErr_responseWord e 0#32, hword, responseErr_responseWord]
  exact ⟨u, ErrCode.code_inj.mp hcode ▸ fails, rfl⟩

/-- The code of a failure is in the command's list. -/
theorem Fails.code_mem {i : Instr} {e : ErrCode} {s t : State} (h : Fails i e s t) : e.code ∈ failureCodes i := by
  cases i with
  | nop | crcclr | crcput val | crcfin | b64enc => exact h.elim
  | rdr reg | wrb idx val | rdb idx | wrt idx val | rdt idx | setlen len | pack flg wc | encode flg wc | check =>
    obtain ⟨rfl, -⟩ := h
    exact List.mem_singleton.mpr rfl
  | b64dec => obtain ⟨rfl | rfl, -⟩ := h <;> simp [failureCodes, ErrCode.code]
  | decode => obtain ⟨rfl | rfl, -⟩ | ⟨_, -, rfl, -⟩ := h <;> simp [failureCodes, ErrCode.code]

/-- Settles O49: a response that is not OK is that of a failure of the command. -/
theorem failureCodesAreThoseOfTheCommand : Obligations.FailureCodesAreThoseOfTheCommand := by
  intro i s t r h hr
  refine or_iff_not_imp_left.mpr fun hfail => ?_
  obtain ⟨e, u, fails, rfl, -⟩ := exec_failed h hr hfail
  exact responseErr_responseWord e 0#32 ▸ fails.code_mem

/-! ### The order of the failures -/

/-- An illegal word answers `E_ILLEGAL` and does nothing else (30_encoding.md R47). -/
theorem runWord_of_illegal {w : CommandWord} {e : Illegal} (h : decode w = .error e) (s : State) :
    runWord w s = .next { s with response := some 0x0000000100000000#64 } := by
  rw [runWord_of_error h, State.fail_illegal]

/-- A `PACK` or `ENCODE` word with a reserved flags bit is illegal, whatever its workchain (30_encoding.md R44). -/
theorem decode_of_reserved_flags {flg : Byte} (h : flg &&& 0xFC#8 ≠ 0#8) (wc : Word32) :
    decode (c64 0x30#8 flg 0#8 0#8 wc) = .error .reservedFlags ∧
      decode (c64 0x50#8 flg 0#8 0#8 wc) = .error .reservedFlags := by
  have illegal : flagsLegal flg = false := beq_eq_false_iff_ne.mpr h
  simp [decode, flagsInA, illegal]

/-- Settles O50: the decoder tests the flags before the workchain is looked at, and the two cases of a text are those of
`B64DEC` and `DECODE`. -/
theorem failuresAreReportedInOrder : Obligations.FailuresAreReportedInOrder := by
  obtain ⟨-, lengthB64dec, alphabetB64dec, -⟩ := b64decReplacesTheRecordOrNothing
  obtain ⟨-, lengthDecode, alphabetDecode, -⟩ := decodeReadsTheTextThenChecks
  refine ⟨fun s w none => ?_, fun s flg wc reserved => ?_, fun s i hi hlen => ?_, fun s i hi hlen invalid => ?_⟩
  · cases hd : decode w with
    | ok i => exact absurd ⟨i, hd⟩ none
    | error e => exact runWord_of_illegal hd s
  · obtain ⟨pack, encode⟩ := decode_of_reserved_flags reserved wc
    exact ⟨runWord_of_illegal pack s, runWord_of_illegal encode s⟩
  · obtain rfl | rfl := hi
    · exact ⟨_, lengthB64dec s hlen, rfl⟩
    · exact ⟨_, lengthDecode s hlen, rfl⟩
  · obtain rfl | rfl := hi
    · exact ⟨_, alphabetB64dec s hlen invalid, rfl⟩
    · exact ⟨_, alphabetDecode s hlen invalid, rfl⟩

/-! ### The state after a failure -/

/-- A failed index or workchain, and any failure of `B64DEC`, leaves the seven elements as they were. -/
theorem Fails.unchanged {i : Instr} {e : ErrCode} {s t : State} (h : Fails i e s t)
    (hi : e = .index ∨ e = .workchain ∨ i = .b64dec) : t = s := by
  cases i with
  | nop | crcclr | crcput val | crcfin | b64enc => exact h.elim
  | rdr reg | wrb idx val | rdb idx | wrt idx val | rdt idx | setlen len | pack flg wc | encode flg wc | b64dec =>
    obtain ⟨-, same⟩ := h
    exact same
  | check =>
    obtain ⟨rfl, -⟩ := h
    simp at hi
  | decode => obtain ⟨rfl | rfl, -⟩ | ⟨_, -, rfl, -⟩ := h <;> simp at hi

/-- The 34 bytes that the checksum covers are the first of `BUF`. -/
theorem State.holds_covered {s : State} {r : Record} (h : s.buf.record = some r) :
    r.covered.length = 34 ∧ s.holds .record 0 r.covered := by
  refine ⟨Record.covered_length (Buffer.account_length_of_record h), fun k hk => ?_⟩
  have within : k < r.bytes.length := by
    rw [Record.bytes, List.length_append]
    omega
  rw [State.holds_record_of_slice (Buffer.slice_of_record h) k within, Record.bytes, List.getElem?_append_left hk]

theorem exec_failed_unchanged {i : Instr} {s t : State} {e : ErrCode} (he : e ≠ .ok) (h : exec i s = .next t)
    (hr : t.response = some (responseWord e 0#32)) (hi : e = .index ∨ e = .workchain ∨ i = .b64dec) :
    t = { s with response := t.response } := by
  obtain ⟨u, fails, rfl⟩ := exec_failed_with he h hr
  obtain rfl : u = s := fails.unchanged hi
  rfl

/-- Where `B64DEC` fails, it writes nothing. -/
theorem exec_b64dec_failed_unchanged {s t : State} (h : exec .b64dec s = .next t)
    (hfail : t.response ≠ some 0x0000000000000000#64) : t = { s with response := t.response } := by
  obtain ⟨e, u, -, rfl⟩ := b64decBody_of_exec h
  have he : e ≠ .ok := fun he => hfail (congrArg some ((responseWord_zero_eq_zero_iff e).mpr he))
  exact exec_failed_unchanged he h rfl (.inr (.inr rfl))

/-- Where the base64 stage of `DECODE` fails, only the result registers are written (44_codec.md R91). -/
theorem exec_decode_failed_cleared {s t : State} {e : ErrCode} (he : e = .length ∨ e = .alphabet)
    (h : exec .decode s = .next t) (hr : t.response = some (responseWord e 0#32)) :
    t = { s with status := 0x00#8, tag := 0x00#8, wc := 0x00000000#32, response := t.response } := by
  obtain ⟨u, fails, rfl⟩ := exec_failed_with (by rintro rfl; simp at he) h hr
  obtain ⟨-, rfl⟩ | ⟨_, -, rfl, -⟩ := fails
  · rfl
  · simp at he

theorem State.clearResult_setCrc (s : State) (c : Sum) :
    (s.setCrc c).clearResult = { s with crc := c, status := 0x00#8, tag := 0x00#8, wc := 0x00000000#32 } := rfl

/-- `CHECK` that fails leaves the checksum of the 34 bytes in `CRC`, and the result registers cleared. -/
theorem CheckFails.covered {e : ErrCode} {s t : State} (h : CheckFails e s t) :
    ∃ covered, covered.length = 34 ∧ s.holds .record 0 covered ∧
      t = { s with crc := crc16 covered, status := 0x00#8, tag := 0x00#8, wc := 0x00000000#32 } := by
  obtain ⟨-, r, hrec, rfl⟩ := h
  obtain ⟨hlen, covered⟩ := State.holds_covered hrec
  exact ⟨r.covered, hlen, covered, s.clearResult_setCrc (crc16 r.covered)⟩

/-- Settles O51: the writes of each failure are those of `Fails`. -/
theorem failingCommandsLeaveExactlyThis : Obligations.FailingCommandsLeaveExactlyThis := by
  refine ⟨fun w s e hd => runWord_of_illegal hd s, fun i s t h hfail => ?_, fun s t h hr => ?_, fun s t h hr => ?_,
    fun s t h hr => ?_⟩
  · obtain hr | hr | ⟨rfl, hr⟩ := hfail
    · exact exec_failed_unchanged (e := .index) (by decide) h hr (.inl rfl)
    · exact exec_failed_unchanged (e := .workchain) (by decide) h hr (.inr (.inl rfl))
    · exact exec_b64dec_failed_unchanged h hr
  · obtain hr | hr := hr
    · exact exec_decode_failed_cleared (e := .length) (.inl rfl) h hr
    · exact exec_decode_failed_cleared (e := .alphabet) (.inr rfl) h hr
  · obtain ⟨u, fails, rfl⟩ := exec_failed_with (e := .checksum) (by decide) h hr
    obtain ⟨covered, hlen, holds, rfl⟩ := CheckFails.covered fails
    exact ⟨covered, hlen, holds, rfl⟩
  · obtain ⟨u, ⟨text, -⟩ | ⟨m, stage, fails⟩, rfl⟩ := exec_failed_with (e := .checksum) (by decide) h hr
    · simp at text
    · obtain ⟨covered, hlen, holds, rfl⟩ := fails.covered
      exact ⟨_, covered, exec_of_commandBody_done stage, hlen, holds, rfl⟩

/-! ### A failure is not remembered -/

/-- A second write, alike to a first one that is done, changes nothing. -/
theorem WrittenAlike.again {α : Type} {before after again : α} (h : WrittenAlike before after after again) :
    again = after := by
  obtain same | ⟨-, same⟩ := h
  · exact same.symm
  · exact same

/-- A command that leaves its own inputs as they were does the same again: all that it writes is written already. -/
theorem exec_again {i : Instr} {s t : State} (h : exec i s = .next t) (same : SameInputs i s t) :
    exec i t = .next t := by
  obtain ⟨u, hu⟩ := exec_answers i t
  obtain ⟨response, bytes, tlen, crc, status, tag, wc⟩ := commandsReadOnlyTheirInputs i s t t u same h hu
  obtain ⟨inputs, taken, resetLine, draws⟩ := exec_surroundings hu
  have buf : u.buf = t.buf := Buffer.eq_of_read_eq fun a => (bytes .record a).again
  have txt : u.txt = t.txt := Buffer.eq_of_read_eq fun a => (bytes .text a).again
  have elements : u.toArchState = t.toArchState := by
    rw [ArchState.mk.injEq]
    exact ⟨buf, txt, tlen.again, crc.again, status.again, tag.again, wc.again⟩
  have surroundings : u.toSurroundings = t.toSurroundings := by
    rw [Surroundings.mk.injEq]
    exact ⟨response.symm, resetLine, inputs, taken, draws⟩
  rw [hu]
  exact congrArg Host.Outcome.next (congrArg₂ State.mk elements surroundings)

/-- A failed command has left its own inputs as they were. -/
theorem Fails.sameInputs {i : Instr} {e : ErrCode} {s t : State} (h : Fails i e s t) : SameInputs i s t := by
  cases i with
  | nop | wrb idx val | wrt idx val | setlen len | crcclr => trivial
  | crcput val | crcfin | b64enc => exact h.elim
  | rdr reg | rdb idx | rdt idx | pack flg wc | encode flg wc =>
    obtain ⟨-, rfl⟩ := h
    exact rfl
  | check =>
    obtain ⟨-, r, -, rfl⟩ := h
    exact rfl
  | b64dec =>
    obtain ⟨-, rfl⟩ := h
    exact ⟨rfl, rfl⟩
  | decode => obtain ⟨-, rfl⟩ | ⟨_, -, -, _, -, rfl⟩ := h <;> exact ⟨rfl, rfl⟩

theorem SameInputs.answer {i : Instr} {s t : State} (h : SameInputs i s t) (r : ResponseWord) :
    SameInputs i s (t.answer r) := by
  cases i <;> exact h

/-- Settles O52: no command reads the response, and a failed command finds its inputs as they were. -/
theorem noFailureIsRemembered : Obligations.NoFailureIsRemembered := by
  refine ⟨exec_with_response, fun i s t r h hr hfail => ?_⟩
  obtain ⟨e, u, fails, -, rfl⟩ := exec_failed h hr hfail
  exact exec_again h (fails.sameInputs.answer r)

end Sys2Proof.Machine
end
